-- ==== Sys2Proof/Word.lean ====
section
/-! DEFINITION. The widths the spec names: register words, samples, bin indices, and the two-valued bank index. -/

namespace Sys2Proof

/-- A 32-bit register or result word (spec/20_memory.md R60). -/
abbrev Word := BitVec 32

/-- A raw sample or a waveform sample. The widths P_B and P_OUT_BITS are at most 16
(spec/00_scope.md R5), so a value is a 16-bit word below 2^P_B or 2^P_OUT_BITS. -/
abbrev Sample := BitVec 16

/-- A 14-bit bin number or bin count (spec/30_encoding.md R82, R92). -/
abbrev BinWord := BitVec 14

/-- The access key `{W, addr[19:0]}` of a bus access: bit 20 is 1 for a write (spec/30_encoding.md R85). -/
abbrev AccessKey := BitVec 21

/-- One of the two banks of the sample window buffer or of the result channel: the values 0 and 1 of
spec/10_state.md R30, R34, R38 and R40. -/
inductive Bank
  | b0
  | b1
  deriving DecidableEq, Repr

/-- The number of a bank, 0 or 1. -/
def Bank.toNat : Bank → Nat
  | .b0 => 0
  | .b1 => 1

/-- `1 - b`, the other bank. -/
def Bank.other : Bank → Bank
  | .b0 => .b1
  | .b1 => .b0

/-- The bank of an index `wp div N`: 0 is bank 0, and 1 (the only other value it takes) is bank 1. -/
def Bank.ofIndex (n : Nat) : Bank := if n = 0 then .b0 else .b1

/-- A pair of values, one for each bank. -/
structure PerBank (α : Type) where
  b0 : α
  b1 : α
  deriving DecidableEq, Repr

/-- The value of bank `b`. -/
def PerBank.get {α : Type} (p : PerBank α) : Bank → α
  | .b0 => p.b0
  | .b1 => p.b1

/-- The pair with the value of bank `b` replaced. -/
def PerBank.set {α : Type} (p : PerBank α) (b : Bank) (v : α) : PerBank α :=
  match b with
  | .b0 => { p with b0 := v }
  | .b1 => { p with b1 := v }

/-- The commands of the CMD format (spec/30_encoding.md R81 to R84): what a word written to CMD asks for.
The three last are the words R108 calls illegal, apart by the row of spec/opcode_table.json they fall under. -/
inductive Command
  | nop
  | acqStart
  | outStart
  | stop
  | selectWave (wave : BitVec 8)
  | armReport (start count : BinWord)
  | subAck (sub : BitVec 4)
  | illegalReservedBits (w : Word)
  | illegalOp7 (any : BitVec 28)
  | illegalOp8F (op : BitVec 4) (any : BitVec 28)
  deriving DecidableEq, Repr

/-- What a host presents to the register port in one HOST step (spec/30_encoding.md R80, R85, R93).
`command w` is the assembler's `CMD ...`: the aligned 32-bit write of the command word `w` to CMD, named by
the CMD rows of spec/opcode_table.json. `access width key data` is one bus access of `width` bits, named by the
BUS rows; `data` is the data of a write and is not looked at on a read. -/
inductive Request
  | command (w : Word)
  | access (width : Nat) (key : AccessKey) (data : Word)
  deriving DecidableEq, Repr

end Sys2Proof
end

