-- ==== Sys2Proof/Syntax.lean ====
section
/-! DEFINITION. The instructions of the block: one constructor for each row of spec/opcode_table.json. -/

namespace Sys2Proof

/-- A host operation on the register port. The first ten are the command words of the CMD format
(spec/40_host_commands.md); the others are the bus accesses of spec/41_register_access.md. -/
inductive Instr
  /-- NOP (R101). -/
  | nop
  /-- ACQ_START (R102). -/
  | acqStart
  /-- OUT_START (R103). -/
  | outStart
  /-- STOP (R104). -/
  | stop
  /-- SELECT_WAVE (R105), WAVE = CMD[7:0]. -/
  | selectWave (wave : BitVec 8)
  /-- ARM_REPORT (R106), START = CMD[27:14], COUNT = CMD[13:0]. -/
  | armReport (start count : BinWord)
  /-- SUB_ACK (R107), SUB = CMD[3:0]. -/
  | subAck (sub : BitVec 4)
  /-- A word of an assigned opcode with a reserved bit set (R83, R108); `w` is the whole word. -/
  | illegalReservedBits (w : Word)
  /-- A word of the reserved opcode 0x7 (R84, R108). -/
  | illegalOp7 (any : BitVec 28)
  /-- A word of the reserved opcodes 0x8 to 0xF (R84, R108). -/
  | illegalOp8F (op : BitVec 4) (any : BitVec 28)
  /-- A write of the command word `data` to CMD (R100). -/
  | wrCmd (data : Word)
  /-- A read of the write-only CMD (R121). -/
  | rdCmd
  /-- A read of RESP (R122). -/
  | rdResp
  /-- A read of STATUS (R123). -/
  | rdStatus
  /-- A read of IRQ_STAT (R124). -/
  | rdIrqStat
  /-- A write-one-to-clear of IRQ_STAT (R124). -/
  | wrIrqStat (data : Word)
  /-- A read of IRQ_EN (R125). -/
  | rdIrqEn
  /-- A write of IRQ_EN (R125). -/
  | wrIrqEn (data : Word)
  /-- A read of VERSION (R126). -/
  | rdVersion
  /-- A read of WINCNT (R126). -/
  | rdWincnt
  /-- A read of OVR_CNT (R126). -/
  | rdOvrCnt
  /-- A read of SKIP_CNT (R126). -/
  | rdSkipCnt
  /-- A read of DROP_CNT (R126). -/
  | rdDropCnt
  /-- A read of EVQ_POP, which pops the event queue (R128). -/
  | rdEvqPop
  /-- A read of REPORT_REQ (R129). -/
  | rdReportReq
  /-- A read of RATE_DIV (R127). -/
  | rdRateDiv
  /-- A write of RATE_DIV (R127). -/
  | wrRateDiv (data : Word)
  /-- A read of ID (R130). -/
  | rdId
  /-- A read of DB_STATE (R131). -/
  | rdDbState
  /-- A read of SUB_STAT(s) (R132), s = addr[6:3]. -/
  | rdSubStat (s : BitVec 4)
  /-- A read of SUB_LATVER(s) (R133), s = addr[6:3]. -/
  | rdSubLatver (s : BitVec 4)
  /-- A read of RES(s, i) (R134) with s = addr[19:16] odd. -/
  | rdResSodd (s : BitVec 4) (i : BinWord)
  /-- A read of RES(s, i) (R134) with s[1:0] = 0b10. -/
  | rdResS2 (s : BitVec 4) (i : BinWord)
  /-- A read of RES(s, i) (R134) with s[2:0] = 0b100. -/
  | rdResS4 (s : BitVec 4) (i : BinWord)
  /-- A read of RES(s, i) (R134) with s = 0b1000. -/
  | rdResS8 (s : BitVec 4) (i : BinWord)
  /-- Every other access (R120): another width than 32 bits, an unaligned or unlisted address, or a write to a
  read-only register. `width` is the access width in bits, `key` the access key, `data` the data presented. -/
  | busError (width : Nat) (key : AccessKey) (data : Word)
  deriving DecidableEq, Repr

end Sys2Proof
end

