-- ==== Sys2Proof/WellFormed.lean ====
section
/-! DEFINITION. Which terms of Instr stand for words of the encoding: the checks of spec/30_encoding.md R82 to R85. -/

namespace Sys2Proof

/-- `v[hi:lo]` as a number (spec/00_scope.md R7). -/
def field {n : Nat} (v : BitVec n) (hi lo : Nat) : Nat := v.toNat / 2 ^ lo % 2 ^ (hi - lo + 1)

/-- The opcodes of spec/30_encoding.md R83 and the position above which their reserved bits lie: `some k`
says that bits 27:k are reserved. ARM_REPORT (0x5) has no reserved bit, and 0x7 to 0xF are no opcode. -/
def reservedFrom (op : Nat) : Option Nat :=
  match op with
  | 0 => some 0
  | 1 => some 0
  | 2 => some 0
  | 3 => some 0
  | 4 => some 8
  | 6 => some 4
  | _ => none

/-- A word of an assigned opcode with some reserved bit set (spec/30_encoding.md R83). -/
def reservedBitSet (w : Word) : Bool :=
  match reservedFrom (field w 31 28) with
  | some k => field w 27 k != 0
  | none => false

/-- The word offsets of the fixed registers that a read is admitted at: 0x00000 to 0x00038
(spec/10_state.md R48). -/
def fixedReadable (k : Nat) : Bool := k < 15

/-- The word offsets of the fixed registers that a write is admitted at: CMD, IRQ_STAT, IRQ_EN and RATE_DIV
(spec/10_state.md R48, spec/20_memory.md R64). -/
def fixedWritable (k : Nat) : Bool := k == 0 || k == 3 || k == 4 || k == 12

/-- The access keys that some BUS row of spec/opcode_table.json other than BUS_ERROR matches
(spec/30_encoding.md R85). The ranges `s < P_NSUB` and `i < N/2` are not part of a row's match. -/
def keyListed (key : AccessKey) : Bool :=
  let write := field key 20 20 == 1
  let s := field key 19 16
  let k := field key 15 2
  field key 1 0 == 0 &&
    (if s = 0 then
      (if field key 15 7 = 1 then !write else if write then fixedWritable k else fixedReadable k)
    else !write)

/-- The instruction is one that its row of spec/opcode_table.json describes. -/
def Instr.wf : Instr → Bool
  | .nop => true
  | .acqStart => true
  | .outStart => true
  | .stop => true
  | .selectWave _ => true
  | .armReport _ _ => true
  | .subAck _ => true
  | .illegalReservedBits w => reservedBitSet w
  | .illegalOp7 _ => true
  | .illegalOp8F op _ => 8 ≤ op.toNat
  | .wrCmd _ => true
  | .rdCmd => true
  | .rdResp => true
  | .rdStatus => true
  | .rdIrqStat => true
  | .wrIrqStat _ => true
  | .rdIrqEn => true
  | .wrIrqEn _ => true
  | .rdVersion => true
  | .rdWincnt => true
  | .rdOvrCnt => true
  | .rdSkipCnt => true
  | .rdDropCnt => true
  | .rdEvqPop => true
  | .rdReportReq => true
  | .rdRateDiv => true
  | .wrRateDiv _ => true
  | .rdId => true
  | .rdDbState => true
  | .rdSubStat _ => true
  | .rdSubLatver _ => true
  | .rdResSodd s _ => s.toNat % 2 == 1
  | .rdResS2 s _ => s.toNat % 4 == 2
  | .rdResS4 s _ => s.toNat % 8 == 4
  | .rdResS8 s _ => s.toNat == 8
  | .busError width key _ => width != 32 || !keyListed key

end Sys2Proof
end

