-- ==== Sys2Proof/Decode.lean ====
section
/-! DEFINITION. Decoding what the host presents to an instruction, the encoder beside it, and the layout in which
spec/opcode_table.json numbers an instruction's bits. Every request decodes: R84 and R85 of spec/30_encoding.md give
each word and each access a row. -/

namespace Sys2Proof

/-! ### Command words -/

/-- The command a word written to CMD asks for: the opcode field selects, then the reserved bits are checked
(spec/30_encoding.md R81 to R84). -/
def decodeCommand (w : Word) : Command :=
  match field w 31 28 with
  | 0 => if field w 27 0 = 0 then .nop else .illegalReservedBits w
  | 1 => if field w 27 0 = 0 then .acqStart else .illegalReservedBits w
  | 2 => if field w 27 0 = 0 then .outStart else .illegalReservedBits w
  | 3 => if field w 27 0 = 0 then .stop else .illegalReservedBits w
  | 4 => if field w 27 8 = 0 then .selectWave (BitVec.ofNat 8 (field w 7 0)) else .illegalReservedBits w
  | 5 => .armReport (BitVec.ofNat 14 (field w 27 14)) (BitVec.ofNat 14 (field w 13 0))
  | 6 => if field w 27 4 = 0 then .subAck (BitVec.ofNat 4 (field w 3 0)) else .illegalReservedBits w
  | 7 => .illegalOp7 (BitVec.ofNat 28 (field w 27 0))
  | op => .illegalOp8F (BitVec.ofNat 4 op) (BitVec.ofNat 28 (field w 27 0))

/-- The instruction of the opcode table that a command is. -/
def Command.instr : Command → Instr
  | .nop => .nop
  | .acqStart => .acqStart
  | .outStart => .outStart
  | .stop => .stop
  | .selectWave wave => .selectWave wave
  | .armReport start count => .armReport start count
  | .subAck sub => .subAck sub
  | .illegalReservedBits w => .illegalReservedBits w
  | .illegalOp7 any => .illegalOp7 any
  | .illegalOp8F op any => .illegalOp8F op any

/-- The word whose opcode is `op` and whose operand area is `rest` (spec/30_encoding.md R80). -/
def commandWord (op rest : Nat) : Word := BitVec.ofNat 32 (op * 2 ^ 28 + rest)

/-- The word of a command (spec/30_encoding.md R82). -/
def encodeCommand : Command → Word
  | .nop => commandWord 0 0
  | .acqStart => commandWord 1 0
  | .outStart => commandWord 2 0
  | .stop => commandWord 3 0
  | .selectWave wave => commandWord 4 wave.toNat
  | .armReport start count => commandWord 5 (start.toNat * 2 ^ 14 + count.toNat)
  | .subAck sub => commandWord 6 sub.toNat
  | .illegalReservedBits w => w
  | .illegalOp7 any => commandWord 7 any.toNat
  | .illegalOp8F op any => commandWord op.toNat any.toNat

/-! ### Bus accesses -/

/-- The fixed register at word offset `k`, where the map admits the access (spec/10_state.md R48). -/
def decodeFixed (write : Bool) (k : Nat) (data : Word) : Option Instr :=
  match write, k with
  | false, 0 => some .rdCmd
  | false, 1 => some .rdResp
  | false, 2 => some .rdStatus
  | false, 3 => some .rdIrqStat
  | false, 4 => some .rdIrqEn
  | false, 5 => some .rdVersion
  | false, 6 => some .rdWincnt
  | false, 7 => some .rdOvrCnt
  | false, 8 => some .rdSkipCnt
  | false, 9 => some .rdDropCnt
  | false, 10 => some .rdEvqPop
  | false, 11 => some .rdReportReq
  | false, 12 => some .rdRateDiv
  | false, 13 => some .rdId
  | false, 14 => some .rdDbState
  | true, 0 => some (.wrCmd data)
  | true, 3 => some (.wrIrqStat data)
  | true, 4 => some (.wrIrqEn data)
  | true, 12 => some (.wrRateDiv data)
  | _, _ => none

/-- The read of word `i` of result window `s ≥ 1`: the row is that of the lowest set bit of `s`
(spec/30_encoding.md R85). -/
def decodeResult (s i : Nat) : Instr :=
  if s % 2 = 1 then .rdResSodd (BitVec.ofNat 4 s) (BitVec.ofNat 14 i)
  else if s % 4 = 2 then .rdResS2 (BitVec.ofNat 4 s) (BitVec.ofNat 14 i)
  else if s % 8 = 4 then .rdResS4 (BitVec.ofNat 4 s) (BitVec.ofNat 14 i)
  else .rdResS8 (BitVec.ofNat 4 s) (BitVec.ofNat 14 i)

/-- The row of a 32-bit access of key `key`, if one other than BUS_ERROR matches (spec/30_encoding.md R85). -/
def decodeKey (key : AccessKey) (data : Word) : Option Instr :=
  let write := field key 20 20 == 1
  let s := field key 19 16
  if field key 1 0 ≠ 0 then none
  else if s = 0 then
    if field key 15 7 = 1 then
      if write then none
      else if field key 2 2 = 0 then some (.rdSubStat (BitVec.ofNat 4 (field key 6 3)))
      else some (.rdSubLatver (BitVec.ofNat 4 (field key 6 3)))
    else decodeFixed write (field key 15 2) data
  else if write then none
  else some (decodeResult s (field key 15 2))

/-- A bus access. An access of another width than 32 bits is a bus error (spec/20_memory.md R62), and so is one
that no row matches (R63, R64). -/
def decodeAccess (width : Nat) (key : AccessKey) (data : Word) : Instr :=
  if width = 32 then (decodeKey key data).getD (.busError width key data) else .busError width key data

/-- The instruction a request is. -/
def decode : Request → Instr
  | .command w => (decodeCommand w).instr
  | .access width key data => decodeAccess width key data

/-- The key of the read of byte offset `addr`, below 2^20 (spec/30_encoding.md R85). DESIGN CHOICE: of a larger number,
which is no address of the port, the low 20 bits; the access stays a read (notes/assumptions/20.md). -/
def readKey (addr : Nat) : AccessKey := BitVec.ofNat 21 (addr % 2 ^ 20)

/-- The key of the write of byte offset `addr`, with the low 20 bits of a larger number as in `readKey`. -/
def writeKey (addr : Nat) : AccessKey := BitVec.ofNat 21 (2 ^ 20 + addr % 2 ^ 20)

/-- The 32-bit read of byte offset `addr`. -/
def readAt (addr : Nat) : Request := .access 32 (readKey addr) 0

/-- The 32-bit write of `data` to byte offset `addr`. -/
def writeAt (addr : Nat) (data : Word) : Request := .access 32 (writeKey addr) data

/-- The request of an instruction, from the encoding tables of spec/30_encoding.md R82 and R86 and the map of
spec/10_state.md R48. A read presents data 0. -/
def encode : Instr → Request
  | .nop => .command (encodeCommand .nop)
  | .acqStart => .command (encodeCommand .acqStart)
  | .outStart => .command (encodeCommand .outStart)
  | .stop => .command (encodeCommand .stop)
  | .selectWave wave => .command (encodeCommand (.selectWave wave))
  | .armReport start count => .command (encodeCommand (.armReport start count))
  | .subAck sub => .command (encodeCommand (.subAck sub))
  | .illegalReservedBits w => .command (encodeCommand (.illegalReservedBits w))
  | .illegalOp7 any => .command (encodeCommand (.illegalOp7 any))
  | .illegalOp8F op any => .command (encodeCommand (.illegalOp8F op any))
  | .wrCmd data => writeAt 0x00000 data
  | .rdCmd => readAt 0x00000
  | .rdResp => readAt 0x00004
  | .rdStatus => readAt 0x00008
  | .rdIrqStat => readAt 0x0000C
  | .wrIrqStat data => writeAt 0x0000C data
  | .rdIrqEn => readAt 0x00010
  | .wrIrqEn data => writeAt 0x00010 data
  | .rdVersion => readAt 0x00014
  | .rdWincnt => readAt 0x00018
  | .rdOvrCnt => readAt 0x0001C
  | .rdSkipCnt => readAt 0x00020
  | .rdDropCnt => readAt 0x00024
  | .rdEvqPop => readAt 0x00028
  | .rdReportReq => readAt 0x0002C
  | .rdRateDiv => readAt 0x00030
  | .wrRateDiv data => writeAt 0x00030 data
  | .rdId => readAt 0x00034
  | .rdDbState => readAt 0x00038
  | .rdSubStat s => readAt (0x00080 + 8 * s.toNat)
  | .rdSubLatver s => readAt (0x00084 + 8 * s.toNat)
  | .rdResSodd s i => readAt (0x10000 * s.toNat + 4 * i.toNat)
  | .rdResS2 s i => readAt (0x10000 * s.toNat + 4 * i.toNat)
  | .rdResS4 s i => readAt (0x10000 * s.toNat + 4 * i.toNat)
  | .rdResS8 s i => readAt (0x10000 * s.toNat + 4 * i.toNat)
  | .busError width key data => .access width key data

/-! ### The bits of an instruction as spec/opcode_table.json numbers them -/

/-- The request whose bits are `w`. A CMD row is one 32-bit word. A BUS row is the 21-bit access key in three
bytes, and the 32-bit data word follows it, so that its bits are 55:24 (notes/assumptions/6.md). `nbits` tells the
two formats apart; the bits above `nbits` are 0. -/
def requestOfTableWord (nbits w : Nat) : Option Request :=
  if 24 < nbits ∧ nbits ≤ 32 then
    if w < 2 ^ 32 then some (.command (BitVec.ofNat 32 w)) else none
  else if nbits ≤ 56 then
    if w < 2 ^ 56 ∧ w % 2 ^ 24 < 2 ^ 21 then
      some (.access 32 (BitVec.ofNat 21 (w % 2 ^ 24)) (BitVec.ofNat 32 (w / 2 ^ 24)))
    else none
  else none

/-- The instruction read from an instruction's bits `w`, numbered as spec/opcode_table.json numbers them. -/
def decodeTableWord (nbits w : Nat) : Option Instr := (requestOfTableWord nbits w).map decode

/-! ### Pseudo-instructions (spec/30_encoding.md R94): the accesses of those whose number of accesses is fixed. What a
host does with the replies, and EVQ_DRAIN, are in Machine/Pseudo.lean. -/

/-- `START_ALL`. -/
def startAll : List Request := [encode .acqStart, encode .outStart]

/-- `SUB_READ s, k, n`: the acknowledgement, the `n` result words from bin `k`, and the final read of SUB_STAT(s). DESIGN
CHOICE: a bin of slot 0, or of 2^14 or more, which R86 has no field for, is read at the same sum
(notes/assumptions/20.md). -/
def subRead (s : BitVec 4) (k n : Nat) : List Request :=
  encode (.subAck s) :: (List.range n).map (fun j => readAt (0x10000 * s.toNat + 4 * (k + j))) ++ [encode (.rdSubStat s)]

/-- `SUB_POLL s`. -/
def subPoll (s : BitVec 4) : List Request := [encode (.rdSubStat s)]

/-- `IRQ_ACK m`. -/
def irqAckRequests (m : Word) : List Request := [encode (.wrIrqStat m)]

/-- `SET_RATE d`. -/
def setRate (d : Word) : List Request := [encode (.wrRateDiv d)]

/-! ### System addresses -/

/-- The request that an access to system address `addr` presents to the block, if the address lies in the block's
window of 2^20 bytes at P_BASE (spec/20_memory.md R60, R76). -/
def requestAtSystemAddress (base : Nat) (write : Bool) (width addr : Nat) (data : Word) : Option Request :=
  if base ≤ addr ∧ addr < base + 2 ^ 20 then
    some (.access width (if write then writeKey (addr - base) else readKey (addr - base)) data)
  else none

end Sys2Proof
end

