-- ==== Sys2Proof/Config.lean ====
section
/-! DEFINITION. The implementation parameters (spec/00_scope.md R5), the values this hardware takes, and the
values the spec leaves open. -/

namespace Sys2Proof

/-- One step that an agent of spec/00_scope.md R10 may take, with the operands the environment draws for it. -/
inductive Action
  /-- HOST: one register-port access. -/
  | host (r : Request)
  /-- SAMPLE(x): one tick of the sample clock, carrying the acquired word (R140). -/
  | sample (x : Sample)
  /-- ENGINE: one step of the transform engine. -/
  | engine
  /-- RC: one step of the report consumer. -/
  | rc
  /-- RPORT: the environment takes the record in the report port. -/
  | rport
  /-- DB(pins, tick_en): one debounce clock step (R210). -/
  | db (pins : BitVec 16) (tickEn : Bool)
  /-- RESET: the block reset (R260). -/
  | reset
  deriving DecidableEq, Repr, Inhabited

/-- The implementation parameters of spec/00_scope.md R5. P_EVQ_DEPTH and P_SYNC are fixed (1 and 2) and are
`Config.evqDepth` and `Config.syncStages` below. No step of any agent changes a configuration. -/
structure Config where
  /-- P_L: log2 of the window length. -/
  lgN : Nat
  /-- P_B: sample width in bits. -/
  sampleBits : Nat
  /-- P_G: guard bits added below each sample at LOAD. -/
  guardBits : Nat
  /-- P_T: fraction bits of the twiddle ROM. -/
  twBits : Nat
  /-- P_RF: fraction bits of a published magnitude. -/
  resBits : Nat
  /-- P_OUT_BITS: width of an output-waveform sample. -/
  outBits : Nat
  /-- P_NWAVE: number of waveforms in the catalog. -/
  nWave : Nat
  /-- P_WAVE_ROM: the catalog words this record lists. A word it does not list is the open
  `Config.waveWord`, so the empty list leaves the whole catalog open. -/
  waveRom : List (List Sample)
  /-- P_NSUB: subscriber slots of the publication channel. -/
  nSub : Nat
  /-- P_NIN: debounced physical inputs. -/
  nIn : Nat
  /-- P_DB_DELAY: debounce delay in debounce ticks. -/
  dbDelay : Nat
  /-- P_ACTIVE_LOW: bit i is 1 when the pin of input i is asserted low. -/
  activeLow : BitVec 16
  /-- P_INIT_FAIL: the peripheral layer reports that its initialization failed. -/
  initFail : Bool
  /-- P_BASE: system address of register offset 0x00000. -/
  base : Nat
  deriving DecidableEq, Repr

/-- P_EVQ_DEPTH, fixed (spec/00_scope.md R5): State holds a one-entry queue. -/
def Config.evqDepth : Nat := 1

/-- P_SYNC, fixed (spec/00_scope.md R5): State holds two synchronizer flops for each input. -/
def Config.syncStages : Nat := 2

/-- OPEN (spec/00_scope.md R5, spec/92_eei_decisions.md D14): word `i` of waveform `w` of the catalog, where
the configuration does not list it. Nothing is known of its value (notes/assumptions/3.md). -/
opaque Config.waveWord : Nat → Nat → Sample

/-- OPEN (spec/00_scope.md R5, spec/92_eei_decisions.md D18): P_INIT_FAIL of this hardware (notes/assumptions/3.md). -/
opaque Config.openInitFail : Bool

/-- OPEN (spec/00_scope.md R5, spec/92_eei_decisions.md D22): P_BASE of this hardware (notes/assumptions/3.md). -/
opaque Config.openBase : Nat

/-- The environment's n-th free choice of the next agent step and its operands, `draw` of spec/00_scope.md R9
and the order R10 leaves open: used where no scheduled step is left (notes/assumptions/1.md). -/
opaque Config.envAction : Nat → Action

/-- The values this hardware takes (spec/00_scope.md R5), CFG-D of spec/95_test_vectors.md. -/
def Config.hardware : Config where
  lgN := 8
  sampleBits := 12
  guardBits := 4
  twBits := 15
  resBits := 16
  outBits := 12
  nWave := 2
  waveRom := []
  nSub := 2
  nIn := 1
  dbDelay := 50
  activeLow := 0
  initFail := Config.openInitFail
  base := Config.openBase

end Sys2Proof
end

