-- ==== Sys2Proof/Machine/State.lean ====
section
/-! DEFINITION. The state of the block (spec/10_state.md R20 to R47) and of a run of it, as plain data, the
reasons a step stops, and the state right after reset. -/

namespace Sys2Proof.Machine

open Sys2Proof

/-- An internal memory of whole words (spec/20_memory.md R75): the (index, word) pairs of the words that differ
from the reset word, in canonical form (`Memory.wf` in Machine/Memory.lean). -/
structure Memory (α : Type) where
  cells : List (Nat × α)
  deriving DecidableEq, Repr

/-- The engine state (R33). -/
inductive EngPhase
  | idle
  | load
  | fft
  | mag
  | pub
  deriving DecidableEq, Repr

/-- The report consumer's state (R42). -/
inductive RcState
  | waiting
  | check
  | emit
  deriving DecidableEq, Repr

/-- The debounce machine's state (R44). -/
inductive DbState
  | idle
  | deb
  deriving DecidableEq, Repr

/-- One word of the engine work array, a pair of SInt_32 in two's complement (R35). -/
structure Cplx where
  re : Word
  im : Word
  deriving DecidableEq, Repr

/-- A subscriber slot's registers (R40). -/
structure Latch where
  seenVer : Word
  latBank : Bank
  latVer : Word
  deriving DecidableEq, Repr

/-- A debounced input's registers (R44). -/
structure DbInput where
  s1 : Bool
  s2 : Bool
  s3 : Bool
  st : DbState
  cnt : BitVec 16
  deriving DecidableEq, Repr

/-- An InputEvent (spec/30_encoding.md R88). -/
structure InputEvent where
  idx : BitVec 8
  cls : BitVec 8
  deriving DecidableEq, Repr

/-- A report record (spec/30_encoding.md R92). -/
inductive Record
  | data (bin : BinWord) (value : Word)
  | fin (count : BinWord) (ver : Word)
  | abort (count : BinWord) (ver : Word)
  deriving DecidableEq, Repr

/-- The bus response (spec/00_scope.md R9). -/
inductive BusResp
  | okay
  | slverr
  deriving DecidableEq, Repr

/-- What one host access returns (spec/00_scope.md R9). -/
inductive Reply
  | read (data : Word) (resp : BusResp)
  | write (resp : BusResp)
  deriving DecidableEq, Repr

/-- An observable event of a run (spec/00_scope.md R9). -/
inductive Event
  | out (v : Sample)
  | rpt (r : Record)
  | irq (level : Bool)
  deriving DecidableEq, Repr

/-- The record S of spec/10_state.md R20: everything the spec gives the block to hold. Each field's docstring names
its rule. -/
structure Block where
  /-- R21 -/
  acqRun : Bool
  /-- R22 -/
  outRun : Bool
  /-- R23 -/
  fatal : Bool
  /-- R24 -/
  activeWave : BitVec 8
  /-- R25 -/
  op : Nat
  /-- R26 -/
  rateDiv : Word
  /-- R27: S.SB -/
  sb : Memory Sample
  /-- R28 -/
  wp : Nat
  /-- R29 -/
  bankOk : PerBank Bool
  /-- R30 -/
  cbank : Bank
  /-- R31 -/
  pending : Bool
  /-- R32 -/
  wincnt : Word
  /-- R32 -/
  ovrCnt : Word
  /-- R32 -/
  skipCnt : Word
  /-- R32 -/
  dropCnt : Word
  /-- R33 -/
  engPhase : EngPhase
  /-- R34 -/
  ldBank : Bank
  /-- R34 -/
  engI : Nat
  /-- R34 -/
  engStage : Nat
  /-- R34 -/
  engQ : Nat
  /-- R35: S.X -/
  x : Memory Cplx
  /-- R37: S.RB -/
  rb : PerBank (Memory Word)
  /-- R38 -/
  front : Bank
  /-- R39 -/
  version : Word
  /-- R39 -/
  bankVer : PerBank Word
  /-- R40: S.seen_ver, S.lat_bank and S.lat_ver by slot -/
  slots : Memory Latch
  /-- R41 -/
  reqStart : BinWord
  /-- R41 -/
  reqCount : BinWord
  /-- R41 -/
  armed : Bool
  /-- R42 -/
  rcState : RcState
  /-- R42 -/
  rcStart : BinWord
  /-- R42 -/
  rcCount : BinWord
  /-- R42 -/
  rcIdx : Nat
  /-- R43 -/
  rptOut : Option Record
  /-- R44: s1, s2, s3, db_state and db_cnt by input -/
  inputs : Memory DbInput
  /-- R45 -/
  evqValid : Bool
  /-- R45 -/
  evqEntry : InputEvent
  /-- R46 -/
  irqStat : BitVec 9
  /-- R46 -/
  irqEn : BitVec 9
  /-- R47 -/
  respCode : BitVec 8
  /-- R47 -/
  respOp : BitVec 4
  deriving DecidableEq, Repr

/-- The machine: the configuration, which no step changes; the block's state S; and the model's own record of the
run around it, which is no hardware state (spec/70_reset_and_hazards.md R277, notes/assumptions/1.md and 2.md). -/
structure State where
  /-- The implementation parameters (spec/00_scope.md R5). -/
  cfg : Config
  /-- The record S. -/
  blk : Block
  /-- The agent steps that are to come next, in order: the interleaving of spec/00_scope.md R10. -/
  sched : List Action
  /-- How many free choices of the environment have been drawn: `Config.envAction drawn` is the next. -/
  drawn : Nat
  /-- The events emitted so far, oldest first. -/
  trace : List Event
  /-- What the host accesses made so far returned, oldest first. -/
  replies : List Reply
  deriving DecidableEq, Repr

/-- What an agent other than HOST comes to when it is picked (spec/00_scope.md R11). -/
inductive Move
  /-- It steps to the block `b` and emits `evs`. -/
  | moved (b : Block) (evs : List Event)
  /-- It has no enabled step. -/
  | stuck
  /-- Its step would be the fault ARITH_OVERFLOW. -/
  | overflow
  deriving DecidableEq, Repr

/-- Why a step stops with a fault. -/
inductive Fault
  /-- ARITH_OVERFLOW (spec/43_transform.md R177): an FFT step computed a component outside SInt_32. Raised by the
  ENGINE step in phase FFT. Safe: the spec itself stops there. -/
  | arithOverflow
  deriving DecidableEq, Repr

/-- Why a step is refused. -/
inductive Refusal
  /-- The arm of an instruction that has no meaning yet. Safe: nothing is claimed of it. -/
  | notModelled (mnemonic : String)
  /-- The configuration is outside spec/00_scope.md R6: there is no machine for it. Raised by `step`. Safe: the
  spec refuses it as a whole. -/
  | invalidConfig
  deriving DecidableEq, Repr

/-- A word of S.X at reset. The spec leaves it open and lets a model fix it to 0 (spec/70_reset_and_hazards.md R260,
notes/assumptions/4.md). -/
def Cplx.zero : Cplx := { re := 0, im := 0 }

/-- A subscriber slot at reset (R40). -/
def Latch.atReset : Latch := { seenVer := 0, latBank := .b0, latVer := 0 }

/-- An input's registers at reset (R44). -/
def DbInput.atReset : DbInput := { s1 := false, s2 := false, s3 := false, st := .idle, cnt := 0 }

/-- S after the RESET step (spec/70_reset_and_hazards.md R260). A memory with no cells reads as its reset word
everywhere. -/
def Block.atReset : Block where
  acqRun := false
  outRun := false
  fatal := false
  activeWave := 0
  op := 0
  rateDiv := 0
  sb := { cells := [] }
  wp := 0
  bankOk := { b0 := false, b1 := false }
  cbank := .b0
  pending := false
  wincnt := 0
  ovrCnt := 0
  skipCnt := 0
  dropCnt := 0
  engPhase := .idle
  ldBank := .b0
  engI := 0
  engStage := 1
  engQ := 0
  x := { cells := [] }
  rb := { b0 := { cells := [] }, b1 := { cells := [] } }
  front := .b0
  version := 0
  bankVer := { b0 := 0, b1 := 0 }
  slots := { cells := [] }
  reqStart := 0
  reqCount := 0
  armed := false
  rcState := .waiting
  rcStart := 0
  rcCount := 0
  rcIdx := 0
  rptOut := none
  inputs := { cells := [] }
  evqValid := false
  evqEntry := { idx := 0, cls := 0 }
  irqStat := 0
  irqEn := 0
  respCode := 0
  respOp := 0

/-- A machine of configuration `c` right after reset: nothing scheduled, nothing drawn, nothing observed. -/
def State.boot (c : Config) : State where
  cfg := c
  blk := Block.atReset
  sched := []
  drawn := 0
  trace := []
  replies := []

/-- The machine this hardware is, right after reset. -/
def State.reset : State := State.boot Config.hardware

end Sys2Proof.Machine
end

