-- ==== Sys2Proof/Machine/Memory.lean ====
section
/-! DEFINITION. Reading and writing one word of an internal memory. A memory lists the words that differ from its
reset word `d`, by strictly rising index, so that memories with equal words are equal data. -/

namespace Sys2Proof.Machine

open Sys2Proof

/-- The word at `k` in a list of cells; `d` where none is listed. -/
def cellsGet {α : Type} (d : α) : List (Nat × α) → Nat → α
  | [], _ => d
  | (a, v) :: rest, k => if a = k then v else cellsGet d rest k

/-- The cells with `(k, v)` put in before the first index that is not below `k`. -/
def cellsInsert {α : Type} (k : Nat) (v : α) : List (Nat × α) → List (Nat × α)
  | [] => [(k, v)]
  | (a, w) :: rest => if a < k then (a, w) :: cellsInsert k v rest else (k, v) :: (a, w) :: rest

/-- The cells without those of index `k`. -/
def cellsErase {α : Type} (k : Nat) : List (Nat × α) → List (Nat × α)
  | [] => []
  | (a, w) :: rest => if a = k then cellsErase k rest else (a, w) :: cellsErase k rest

/-- The word at index `k` of a memory whose reset word is `d`. -/
def Memory.get {α : Type} (d : α) (m : Memory α) (k : Nat) : α := cellsGet d m.cells k

/-- The memory with the word at index `k` replaced. Writing the reset word removes the cell. -/
def Memory.set {α : Type} [DecidableEq α] (d : α) (m : Memory α) (k : Nat) (v : α) : Memory α :=
  { cells := if v = d then cellsErase k m.cells else cellsInsert k v (cellsErase k m.cells) }

/-- The canonical form: indices strictly rise, and no cell holds the reset word. -/
def Memory.wf {α : Type} [DecidableEq α] (d : α) (m : Memory α) : Bool :=
  decide ((m.cells.map Prod.fst).Pairwise (· < ·)) && m.cells.all (fun c => decide (c.2 ≠ d))

end Sys2Proof.Machine
end

