-- ==== Sys2Proof/Machine/Params.lean ====
section
/-! DEFINITION. What follows from the implementation parameters: sizes, validity, the waveform catalog, and
truncation to a parameterised width. -/

namespace Sys2Proof.Machine

open Sys2Proof

/-- N = 2^P_L, the samples of a window (spec/00_scope.md R5). -/
def winLen (c : Config) : Nat := 2 ^ c.lgN

/-- N/2, the bins of a result. -/
def binCount (c : Config) : Nat := 2 ^ c.lgN / 2

/-- `lo ≤ v ≤ hi`. -/
def between (lo v hi : Nat) : Bool := Nat.ble lo v && Nat.ble v hi

/-- Every parameter lies in its range, P_L + P_B + P_G ≤ 29 and P_T ≥ P_L (spec/00_scope.md R5, R6). The open
parameters and P_ACTIVE_LOW have no other law than their type. -/
def configValid (c : Config) : Bool :=
  [between 2 c.lgN 14, between 1 c.sampleBits 16, between 0 c.guardBits 16, between 2 c.twBits 30,
    between 0 c.resBits 29, between 1 c.outBits 16, between 1 c.nWave 256, between 1 c.nSub 15,
    between 1 c.nIn 16, between 1 c.dbDelay 65535,
    between 0 (c.lgN + c.sampleBits + c.guardBits) 29, between c.lgN c.twBits 30].all id

/-- The low `bits` bits of a 16-bit word: the value a port of that width carries. -/
def lowBits (bits : Nat) (v : Sample) : Sample := BitVec.ofNat 16 (v.toNat % 2 ^ bits)

/-- WAVE_ROM[w][i], a word of P_OUT_BITS bits (spec/10_state.md R36). A word that the configuration does not list is
the open `Config.waveWord w i`. -/
def waveRomWord (c : Config) (w i : Nat) : Sample :=
  lowBits c.outBits (((c.waveRom[w]?).bind (fun row => row[i]?)).getD (Config.waveWord w i))

end Sys2Proof.Machine
end

