-- ==== Sys2Proof/Machine/Flags.lean ====
section
/-! DEFINITION. The status bits and flags the block computes: the interrupt sources and the level, the response
codes, and the readiness and validity of a subscriber slot. -/

namespace Sys2Proof.Machine

open Sys2Proof

/-! ### The bits of IRQ_STAT and IRQ_EN (spec/10_state.md R51) -/

/-- WIN: the window-complete strobe. -/
def irqWin : BitVec 9 := 0x001
/-- PUB: a publish. -/
def irqPub : BitVec 9 := 0x002
/-- EVQ: an event pushed. -/
def irqEvq : BitVec 9 := 0x004
/-- OVR: TransformOverrun. -/
def irqOvr : BitVec 9 := 0x008
/-- SKIP: a window lost. -/
def irqSkip : BitVec 9 := 0x010
/-- DROP: an event dropped on a full queue. -/
def irqDrop : BitVec 9 := 0x020
/-- RPT_DONE: a report END record emitted. -/
def irqRptDone : BitVec 9 := 0x040
/-- RPT_ABORT: a report ABORT record emitted. -/
def irqRptAbort : BitVec 9 := 0x080
/-- FATAL: HardwareInitFailure. -/
def irqFatal : BitVec 9 := 0x100

/-- The interrupt output: `irq = ((S.IRQ_STAT & S.IRQ_EN) ≠ 0)` (spec/60_exceptions.md R237). -/
def irqLevel (b : Block) : Bool := b.irqStat &&& b.irqEn != 0

/-- The event that the end of a step from `old` to `new` appends: the new level, if it changed (R237). -/
def irqEvents (old new : Block) : List Event :=
  if irqLevel new = irqLevel old then [] else [.irq (irqLevel new)]

/-! ### Response codes (spec/10_state.md R52) -/

/-- OK. -/
def codeOk : BitVec 8 := 0x00
/-- ILLEGAL: a reserved opcode or nonzero reserved bits. -/
def codeIllegal : BitVec 8 := 0x01
/-- INVALID_RANGE: ARM_REPORT of a range outside the spectrum. -/
def codeInvalidRange : BitVec 8 := 0x02
/-- BAD_WAVE: SELECT_WAVE of no catalog entry. -/
def codeBadWave : BitVec 8 := 0x03
/-- HW_FAIL: a start refused or failed. -/
def codeHwFail : BitVec 8 := 0x04
/-- BAD_SUB: SUB_ACK of no host slot. -/
def codeBadSub : BitVec 8 := 0x05

/-! ### Subscriber flags -/

/-- The registers of slot `s` (spec/10_state.md R40). -/
def slotAt (b : Block) (s : Nat) : Latch := b.slots.get Latch.atReset s

/-- NEW(s): a publish has happened since slot `s` last consumed (spec/10_state.md R54, spec/44_publication_report.md R190). -/
def newFlag (b : Block) (s : Nat) : Bool := b.version != (slotAt b s).seenVer

/-- VALID(s): the bank slot `s` latched still carries the version it latched (R54, R194). -/
def validFlag (b : Block) (s : Nat) : Bool := b.bankVer.get (slotAt b s).latBank == (slotAt b s).latVer

end Sys2Proof.Machine
end

