-- ==== Sys2Proof/Machine/Ops.lean ====
section
/-! DEFINITION. The shared operations: the words of the internal memories, recording an error or an event (this block's
whole "exception entry", spec/60_exceptions.md R240), the end of a step, and the end of a host access. -/

namespace Sys2Proof.Machine

open Sys2Proof

/-! ### The internal memories (spec/20_memory.md R75) -/

/-- S.SB[j] (spec/10_state.md R27). -/
def sbAt (b : Block) (j : Nat) : Sample := b.sb.get 0 j

/-- S.X[k] (R35). -/
def xAt (b : Block) (k : Nat) : Cplx := b.x.get Cplx.zero k

/-- S.RB[bank][k] (R37). -/
def rbAt (b : Block) (bank : Bank) (k : Nat) : Word := (b.rb.get bank).get 0 k

/-- The registers of input `i` (R44). -/
def inputAt (b : Block) (i : Nat) : DbInput := b.inputs.get DbInput.atReset i

/-- `S.SB[j] <- v`. -/
def setSb (b : Block) (j : Nat) (v : Sample) : Block := { b with sb := b.sb.set 0 j v }

/-- `S.X[k] <- v`. -/
def setX (b : Block) (k : Nat) (v : Cplx) : Block := { b with x := b.x.set Cplx.zero k v }

/-- `S.RB[bank][k] <- v`. -/
def setRb (b : Block) (bank : Bank) (k : Nat) (v : Word) : Block :=
  { b with rb := b.rb.set bank ((b.rb.get bank).set 0 k v) }

/-- The registers of slot `s` replaced. -/
def setSlot (b : Block) (s : Nat) (v : Latch) : Block := { b with slots := b.slots.set Latch.atReset s v }

/-- The registers of input `i` replaced. -/
def setInput (b : Block) (i : Nat) (v : DbInput) : Block := { b with inputs := b.inputs.set DbInput.atReset i v }

/-! ### Recording an event or an error

The block has no trap: an event saves no state and transfers no control (spec/60_exceptions.md R240). What it leaves is
a sticky bit of IRQ_STAT, a count, or a response code. -/

/-- `irq_set(X)` for the sources in `bits` (spec/00_scope.md R9). -/
def irqSet (b : Block) (bits : BitVec 9) : Block := { b with irqStat := b.irqStat ||| bits }

/-- The acknowledgement, this block's whole "return from an exception" (spec/60_exceptions.md R241): the bits written
as 1 are cleared (spec/41_register_access.md R124). -/
def irqAck (b : Block) (bits : BitVec 9) : Block := { b with irqStat := b.irqStat &&& ~~~bits }

/-- A window is lost: SKIP_CNT and IRQ_STAT.SKIP (spec/60_exceptions.md R233). -/
def recordSkip (b : Block) : Block := irqSet { b with skipCnt := b.skipCnt + 1 } irqSkip

/-- TransformOverrun: OVR_CNT and IRQ_STAT.OVR (R232). -/
def recordOverrun (b : Block) : Block := irqSet { b with ovrCnt := b.ovrCnt + 1 } irqOvr

/-- QueueFull: DROP_CNT and IRQ_STAT.DROP (R235). -/
def recordDrop (b : Block) : Block := irqSet { b with dropCnt := b.dropCnt + 1 } irqDrop

/-- fatal_path(), the HardwareInitFailure action (spec/42_acquisition_output.md R146). -/
def fatalPath (b : Block) : Block :=
  irqSet { b with fatal := true, acqRun := false, outRun := false } irqFatal

/-- RESP takes the opcode and the response code of a command (spec/40_host_commands.md R100). -/
def respond (b : Block) (op : BitVec 4) (code : BitVec 8) : Block := { b with respOp := op, respCode := code }

/-! ### Consuming a publication -/

/-- Slot `s` consumes the latest publication: the three writes of spec/44_publication_report.md R193. -/
def consume (b : Block) (s : Nat) : Block :=
  setSlot b s { seenVer := b.version, latBank := b.front, latVer := b.version }

/-! ### The end of a step -/

/-- The machine after a step that leaves the block as `b` and emits `evs`; the interrupt level is looked at last
(spec/60_exceptions.md R237). -/
def State.settle (s : State) (b : Block) (evs : List Event) : State :=
  { s with blk := b, trace := s.trace ++ evs ++ irqEvents s.blk b }

/-- The machine after a HOST step that leaves the block as `b` and returns `r`. -/
def State.answer (s : State) (b : Block) (r : Reply) : State :=
  { s.settle b [] with replies := s.replies ++ [r] }

/-- A command step (R100): the command leaves the block as `b`, RESP takes the opcode and the code, and the write to
CMD answers OKAY. -/
def State.command (s : State) (b : Block) (op : BitVec 4) (code : BitVec 8) : State :=
  s.answer (respond b op code) (.write .okay)

/-- A read that changes nothing and returns `v` with OKAY (spec/41_register_access.md R120). -/
def State.readOk (s : State) (v : Word) : State := s.answer s.blk (.read v .okay)

/-- `raise BusError` on a read: data 0, SLVERR, no state change (spec/00_scope.md R9, spec/41_register_access.md R120). -/
def State.readError (s : State) : State := s.answer s.blk (.read 0 .slverr)

/-- `raise BusError` on a write: SLVERR, no state change. -/
def State.writeError (s : State) : State := s.answer s.blk (.write .slverr)

end Sys2Proof.Machine
end

