-- ==== Sys2Proof/Machine/Acquisition.lean ====
section
/-! DEFINITION. The SAMPLE agent: acquisition into the sample window buffer, the window-complete strobe and the output
streamer (spec/42_acquisition_output.md). -/

namespace Sys2Proof.Machine

open Sys2Proof

/-- load_abort() (R142). -/
def loadAbort (b : Block) : Block := recordSkip { b with engPhase := .idle }

/-- strobe(bank) (R143): the window of `bank` is complete. -/
def strobe (b : Block) (bank : Bank) : Block :=
  let b1 := irqSet { b with bankOk := b.bankOk.set bank true, cbank := bank, wincnt := b.wincnt + 1 } irqWin
  let b2 := if b.engPhase ≠ .idle then recordOverrun b1 else b1
  let b3 := if b.pending then recordSkip b2 else b2
  { b3 with pending := true }

/-- acquire(x) (R141): one sample into the circular double buffer. -/
def acquire (c : Config) (x : Sample) (b : Block) : Block :=
  let n := winLen c
  let bank := Bank.ofIndex (b.wp / n)
  let b1 := setSb { b with bankOk := b.bankOk.set bank false } b.wp (lowBits c.sampleBits x)
  let b2 := if b.engPhase = .load ∧ b.ldBank = bank then loadAbort b1 else b1
  let b3 := if b.wp % n = n - 1 then strobe b2 bank else b2
  { b3 with wp := (b.wp + 1) % (2 * n) }

/-- The event of stream() (R144): the word of the active waveform. -/
def streamEvent (c : Config) (b : Block) : Event := .out (waveRomWord c b.activeWave.toNat b.op)

/-- The rest of stream() (R144): the next index, cyclically. -/
def stream (c : Config) (b : Block) : Block := { b with op := (b.op + 1) % winLen c }

/-- SAMPLE(x) (R140, R145): the tick serves the acquisition path and the output path, each while it runs. -/
def sampleMove (c : Config) (x : Sample) (b : Block) : Move :=
  let b1 := if b.acqRun then acquire c x b else b
  if b.outRun then .moved (stream c b1) [streamEvent c b] else .moved b1 []

end Sys2Proof.Machine
end

