-- ==== Sys2Proof/Machine/Debounce.lean ====
section
/-! DEFINITION. The DB agent: synchronizer, edge detector, debounce machine and event queue
(spec/45_debounce_events.md). -/

namespace Sys2Proof.Machine

open Sys2Proof

/-- The event class DIAG_DUMP, the only one there is (spec/30_encoding.md R88). -/
def clsDiagDump : BitVec 8 := 0x01

/-- push(i) (R215): one event on the queue, or the event is dropped. -/
def pushEvent (b : Block) (i : Nat) : Block :=
  if b.evqValid then recordDrop b
  else irqSet { b with evqValid := true, evqEntry := { idx := BitVec.ofNat 8 i, cls := clsDiagDump } } irqEvq

/-- The synchronizer of one input takes the asserted level `a` (R211). -/
def syncShift (d : DbInput) (a : Bool) : DbInput := { d with s3 := d.s2, s2 := d.s1, s1 := a }

/-- The assertion edge of the synchronized level, after the shift (R211, R212). -/
def edgeSeen (d : DbInput) : Bool := d.s2 && !d.s3

/-- The debounce machine of one input after the shift (R213, R214), and whether its delay expires with the input still
asserted, so that an event is pushed. -/
def debounce (delay : Nat) (d : DbInput) (tickEn : Bool) : DbInput × Bool :=
  match d.st with
  | .idle => if edgeSeen d then ({ d with st := .deb, cnt := BitVec.ofNat 16 delay }, false) else (d, false)
  | .deb =>
    if edgeSeen d then ({ d with cnt := BitVec.ofNat 16 delay }, false)
    else if tickEn then
      if 1 < d.cnt.toNat then ({ d with cnt := d.cnt - 1 }, false) else ({ d with st := .idle }, d.s2)
    else (d, false)

/-- The asserted level of pin `i`, after its polarity (R211). -/
def pinAsserted (c : Config) (pins : BitVec 16) (i : Nat) : Bool := pins.getLsbD i ^^ c.activeLow.getLsbD i

/-- One DB step of input `i`. -/
def dbInputStep (c : Config) (pins : BitVec 16) (tickEn : Bool) (b : Block) (i : Nat) : Block :=
  let r := debounce c.dbDelay (syncShift (inputAt b i) (pinAsserted c pins i)) tickEn
  let b1 := setInput b i r.1
  if r.2 then pushEvent b1 i else b1

/-- The DB step of the inputs below `n`, in increasing order (R210, R216). -/
def dbInputs (c : Config) (pins : BitVec 16) (tickEn : Bool) (b : Block) : Nat → Block
  | 0 => b
  | n + 1 => dbInputStep c pins tickEn (dbInputs c pins tickEn b n) n

/-- DB(pins, tick_en) (R210). -/
def dbMove (c : Config) (pins : BitVec 16) (tickEn : Bool) (b : Block) : Move :=
  .moved (dbInputs c pins tickEn b c.nIn) []

end Sys2Proof.Machine
end

