-- ==== Sys2Proof/Machine/Datapath.lean ====
section
/-! DEFINITION. The operators of the transform engine (spec/43_transform.md section 2) and the twiddle ROM (R171), all
exact integer arithmetic. -/

namespace Sys2Proof.Machine

open Sys2Proof

/-- An exact pair of integers: a complex value before it is narrowed to S.X's words. -/
structure CInt where
  re : Int
  im : Int
  deriving DecidableEq, Repr

/-! ### Integer square root -/

/-- The largest `r + t` with `t < 2^bits` whose square is at most `v`, one bit at a time. -/
def isqrtBits (v : Nat) : Nat → Nat → Nat
  | 0, r => r
  | bits + 1, r =>
    let t := r + 2 ^ bits
    isqrtBits v bits (if t * t ≤ v then t else r)

/-- `isqrt(v)`, the largest r with r·r ≤ v (spec/00_scope.md R8). -/
def isqrt (v : Nat) : Nat := isqrtBits v (Nat.log2 v / 2 + 1) 0

/-! ### The twiddle ROM

The spec defines TW by cos and sin (R171). The entries are computed here in fixed point with `trigBits` fraction bits:
the half-angle formula gives cos and sin of 2π/2^k, and the entry of index j is the product of those of j's bits
(notes/assumptions/5.md). -/

/-- Fraction bits of the fixed-point cosines and sines. -/
def trigBits : Nat := 96

/-- (cos, sin) of 2π/2^(n+2) with `trigBits` fraction bits: π/2 at n = 0, then half the angle each time. -/
def quarterRoot : Nat → Nat × Nat
  | 0 => (0, 2 ^ trigBits)
  | n + 1 =>
    let c := (quarterRoot n).1
    let one := 2 ^ trigBits
    (isqrt ((one + c) * one / 2), isqrt ((one - c) * one / 2))

/-- The product of two fixed-point complex values. -/
def trigMul (a b : CInt) : CInt :=
  { re := (a.re * b.re - a.im * b.im) / (2 ^ trigBits : Nat)
    im := (a.re * b.im + a.im * b.re) / (2 ^ trigBits : Nat) }

/-- (cos, sin) of 2π·j/2^l for j below 2^(l-1), with `trigBits` fraction bits, from the low `n` bits of j. -/
def unitRoot (l j : Nat) : Nat → CInt
  | 0 => { re := (2 ^ trigBits : Nat), im := 0 }
  | n + 1 =>
    if j.testBit n then
      let r := quarterRoot (l - n - 2)
      trigMul (unitRoot l j n) { re := r.1, im := r.2 }
    else unitRoot l j n

/-- `round(v · 2^t)` of a fixed-point value, round(v) = floor(v + 1/2). -/
def trigRound (t : Nat) (v : Int) : Int :=
  (v * (2 ^ t : Nat) + (2 ^ (trigBits - 1) : Nat)) / (2 ^ trigBits : Nat)

/-- TW[j] (R171). -/
def twiddle (c : Config) (j : Nat) : CInt :=
  let e := unitRoot c.lgN j (c.lgN - 1)
  { re := trigRound c.twBits e.re, im := trigRound c.twBits (-e.im) }

/-! ### Butterfly, magnitude, scale -/

/-- `cmul` (R166): the product by a twiddle, each component rounded to nearest with ties toward +∞. -/
def cmul (t : Nat) (w x : CInt) : CInt :=
  { re := (w.re * x.re - w.im * x.im + (2 ^ (t - 1) : Nat)) / (2 ^ t : Nat)
    im := (w.re * x.im + w.im * x.re + (2 ^ (t - 1) : Nat)) / (2 ^ t : Nat) }

/-- The two outputs of a butterfly, `u + t` and `u - t` (R167). -/
def butterfly (tb : Nat) (w u x : CInt) : CInt × CInt :=
  let t := cmul tb w x
  ({ re := u.re + t.re, im := u.im + t.im }, { re := u.re - t.re, im := u.im - t.im })

/-- `mag` (R168): the floor of the Euclidean modulus. -/
def mag (z : CInt) : Nat := isqrt ((z.re * z.re + z.im * z.im).toNat)

/-- `scale` (R169): multiplies by 2/N and leaves P_RF fraction bits. -/
def scale (c : Config) (m : Nat) : Nat :=
  m * 2 ^ (c.resBits + 1) / 2 ^ (c.lgN + c.sampleBits + c.guardBits)

/-- `bitrev_L(i)`: bit b of i becomes bit L-1-b (spec/00_scope.md R8). -/
def bitrev : Nat → Nat → Nat
  | 0, _ => 0
  | l + 1, i => (i % 2) * 2 ^ l + bitrev l (i / 2)

/-- A component lies in SInt_32 (R177). -/
def fitsInt32 (v : Int) : Bool := decide (-(2 ^ 31 : Nat) ≤ v ∧ v < (2 ^ 31 : Nat))

/-- Both components lie in SInt_32. -/
def CInt.fits (z : CInt) : Bool := fitsInt32 z.re && fitsInt32 z.im

/-- A word of S.X as a pair of integers (spec/10_state.md R35). -/
def Cplx.toInts (z : Cplx) : CInt := { re := z.re.toInt, im := z.im.toInt }

/-- The word of S.X that holds a pair of integers. -/
def CInt.toCplx (z : CInt) : Cplx := { re := BitVec.ofInt 32 z.re, im := BitVec.ofInt 32 z.im }

/-! ### The whole transform -/

/-- The elements and the twiddle of butterfly `q` of stage `s`: `(top, bot, w)` (R174). -/
def butterflyAt (c : Config) (s q : Nat) : Nat × Nat × CInt :=
  let m := 2 ^ s
  let h := m / 2
  let g := q / h
  let j := q % h
  let top := g * m + j
  (top, top + h, twiddle c (j * 2 ^ (c.lgN - s)))

end Sys2Proof.Machine
end

