-- ==== Sys2Proof/Machine/Engine.lean ====
section
/-! DEFINITION. The ENGINE agent: one step of the transform engine (spec/43_transform.md section 3). -/

namespace Sys2Proof.Machine

open Sys2Proof

/-- ENG_START (R170): the engine takes the latest completed window, or counts it lost if its bank has been written. -/
def engStart (b : Block) : Block :=
  let b1 := { b with pending := false }
  if b.bankOk.get b.cbank then { b1 with ldBank := b.cbank, engI := 0, engPhase := .load } else recordSkip b1

/-- The index in S.SB of sample `i` of the bank being loaded. -/
def loadIndex (c : Config) (b : Block) (i : Nat) : Nat := b.ldBank.toNat * winLen c + i

/-- The word LOAD makes of a sample: `(s << P_G, 0)` (R162, R172). -/
def loadWord (c : Config) (s : Sample) : Cplx := { re := BitVec.ofNat 32 (s.toNat * 2 ^ c.guardBits), im := 0 }

/-- ENG_LOAD (R172, R173): one sample into S.X at its bit-reversed place. -/
def engLoad (c : Config) (b : Block) : Block :=
  let i := b.engI
  let b1 := { setX b (bitrev c.lgN i) (loadWord c (sbAt b (loadIndex c b i))) with engI := i + 1 }
  if i + 1 = winLen c then { b1 with engStage := 1, engQ := 0, engPhase := .fft } else b1

/-- fft_done() (R176): the back bank takes its new version stamp before any of its words changes. -/
def fftDone (b : Block) : Block :=
  { b with bankVer := b.bankVer.set b.front.other (b.version + 1), engI := 0, engPhase := .mag }

/-- The stage advance at the end of an ENG_FFT step (R175). -/
def fftAdvance (c : Config) (b : Block) : Block :=
  if b.engQ < binCount c - 1 then { b with engQ := b.engQ + 1 }
  else if b.engStage < c.lgN then { b with engQ := 0, engStage := b.engStage + 1 }
  else fftDone b

/-- ENG_FFT (R174, R177): one butterfly; a component outside SInt_32 is the fault ARITH_OVERFLOW. -/
def engFft (c : Config) (b : Block) : Move :=
  let (top, bot, w) := butterflyAt c b.engStage b.engQ
  let y := butterfly c.twBits w (xAt b top).toInts (xAt b bot).toInts
  if y.1.fits && y.2.fits then .moved (fftAdvance c (setX (setX b top y.1.toCplx) bot y.2.toCplx)) []
  else .overflow

/-- The result word of an element of S.X (R168, R169). -/
def magWord (c : Config) (z : Cplx) : Word := BitVec.ofNat 32 (scale c (mag z.toInts))

/-- ENG_MAG (R178): one bin into the back bank. -/
def engMag (c : Config) (b : Block) : Block :=
  let k := b.engI
  let b1 := { setRb b b.front.other k (magWord c (xAt b k)) with engI := k + 1 }
  if k + 1 = binCount c then { b1 with engPhase := .pub } else b1

/-- ENG_PUB (R183): the publish. -/
def engPub (b : Block) : Block :=
  irqSet { b with front := b.front.other, version := b.version + 1, engPhase := .idle } irqPub

/-- The enabled ENGINE step, if any (R160). -/
def engineMove (c : Config) (b : Block) : Move :=
  match b.engPhase with
  | .idle => if b.pending then .moved (engStart b) [] else .stuck
  | .load => .moved (engLoad c b) []
  | .fft => engFft c b
  | .mag => .moved (engMag c b) []
  | .pub => .moved (engPub b) []

/-! ### The whole transform as a function of the window (R182) -/

/-- S.X after LOAD of the window `win`. -/
def loadedX (c : Config) (win : Nat → Sample) (k : Nat) : Cplx := loadWord c (win (bitrev c.lgN k))

/-- S.X after the first `n` butterflies of a job that loaded `x`: N/2 butterflies for each stage (R174, R175). -/
def fftX (c : Config) (x : Nat → Cplx) : Nat → Nat → Cplx
  | 0 => x
  | n + 1 =>
    let y := fftX c x n
    let (top, bot, w) := butterflyAt c (n / binCount c + 1) (n % binCount c)
    let r := butterfly c.twBits w (y top).toInts (y bot).toInts
    fun k => if k = bot then r.2.toCplx else if k = top then r.1.toCplx else y k

/-- `transform(bank)`: the result word of bin `k` of the window `win`. -/
def transform (c : Config) (win : Nat → Sample) (k : Nat) : Word :=
  magWord c (fftX c (loadedX c win) (binCount c * c.lgN) k)

/-- The ENGINE steps of one job: ENG_START, LOAD, FFT, MAG and PUB (R160). -/
def jobSteps (c : Config) : Nat := 1 + winLen c + binCount c * c.lgN + binCount c + 1

end Sys2Proof.Machine
end

