-- ==== Sys2Proof/Machine/Report.lean ====
section
/-! DEFINITION. The RC and RPORT agents: the windowed report consumer on slot 0 and the environment that takes its
records (spec/44_publication_report.md section 2). -/

namespace Sys2Proof.Machine

open Sys2Proof

/-- RC_CHECK (R199): the request is tested and cleared in one step. -/
def rcCheck (b : Block) : Block :=
  if b.armed then
    { b with rcStart := b.reqStart, rcCount := b.reqCount, armed := false, rcIdx := 0, rcState := .emit }
  else { b with rcState := .waiting }

/-- The abort branch of RC_EMIT (R200): the latched result is being overwritten, and the request is armed again unless
a newer one is. -/
def rcAbort (b : Block) : Block :=
  let b1 := { b with rptOut := some (.abort (BitVec.ofNat 14 b.rcIdx) (slotAt b 0).latVer) }
  let b2 := if b.armed then b1 else { b1 with reqStart := b.rcStart, reqCount := b.rcCount, armed := true }
  { irqSet b2 irqRptAbort with rcState := .waiting }

/-- The value emitted for bin `k`: bin 0 is halved (R200). -/
def emittedValue (k : Nat) (v : Word) : Word := if k = 0 then v >>> 1 else v

/-- The data branch of RC_EMIT (R200). -/
def rcData (b : Block) : Block :=
  let k := b.rcStart.toNat + b.rcIdx
  { b with
    rptOut := some (.data (BitVec.ofNat 14 k) (emittedValue k (rbAt b (slotAt b 0).latBank k)))
    rcIdx := b.rcIdx + 1 }

/-- The end branch of RC_EMIT (R200). -/
def rcEnd (b : Block) : Block :=
  { irqSet { b with rptOut := some (.fin b.rcCount (slotAt b 0).latVer) } irqRptDone with rcState := .waiting }

/-- RC_EMIT (R200): one record. -/
def rcEmit (b : Block) : Block :=
  if validFlag b 0 then (if b.rcIdx < b.rcCount.toNat then rcData b else rcEnd b) else rcAbort b

/-- The enabled RC step, if any (R198 to R201, R203). -/
def rcMove (b : Block) : Move :=
  match b.rcState with
  | .waiting => if newFlag b 0 then .moved { consume b 0 with rcState := .check } [] else .stuck
  | .check => .moved (rcCheck b) []
  | .emit => if b.rptOut.isSome then .stuck else .moved (rcEmit b) []

/-- RPORT (R202): the environment takes the record. -/
def rportMove (b : Block) : Move :=
  match b.rptOut with
  | some r => .moved { b with rptOut := none } [.rpt r]
  | none => .stuck

end Sys2Proof.Machine
end

