-- ==== Sys2Proof/Machine/Agents.lean ====
section
/-! DEFINITION. The agents of spec/00_scope.md R10 other than HOST as one function, the pick of the next agent, and the
placing of a host access as the next pick. -/

namespace Sys2Proof.Machine

open Sys2Proof

/-- What the agent of an action comes to; HOST is not one of these, and its accesses are `exec`'s (R10). -/
def agentMove (c : Config) (a : Action) (b : Block) : Move :=
  match a with
  | .host _ => .stuck
  | .sample x => sampleMove c x b
  | .engine => engineMove c b
  | .rc => rcMove b
  | .rport => rportMove b
  | .db pins tickEn => dbMove c pins tickEn b
  | .reset => .moved Block.atReset []

/-- The machine after an agent's move. A pick of an agent that has no enabled step is no step of the block: only the
pick is used up (R11, R201, R203, notes/assumptions/2.md). -/
def State.afterMove (s : State) : Move → Host.Outcome State Fault Refusal
  | .moved b evs => .next (s.settle b evs)
  | .stuck => .next s
  | .overflow => .fault .arithOverflow

/-- The next agent step: the first of the schedule, and the environment's next free choice where none is scheduled. -/
def State.nextAction (s : State) : Action :=
  match s.sched with
  | a :: _ => a
  | [] => Config.envAction s.drawn

/-- The machine with its next agent step taken out. -/
def State.popAction (s : State) : State :=
  match s.sched with
  | _ :: rest => { s with sched := rest }
  | [] => { s with drawn := s.drawn + 1 }

/-- The machine with `a` as its next agent step. -/
def State.withNext (s : State) (a : Action) : State := { s with sched := a :: s.sched }

end Sys2Proof.Machine
end

