-- ==== Sys2Proof/Machine/Operands.lean ====
section
/-! DEFINITION. The words the registers read as: the field layouts of spec/10_state.md R49 to R58, the 64-bit word of a
report record, and the byte lanes of a register word. `x ++ y` is the spec's `{x, y}`. -/

namespace Sys2Proof.Machine

open Sys2Proof

/-- RESP (R52). -/
def respWord (b : Block) : Word := (0 : BitVec 20) ++ b.respOp ++ b.respCode

/-- STATUS (R50): bit 31 first. -/
def statusWord (c : Config) (b : Block) : Word :=
  BitVec.ofBool b.rptOut.isSome ++ BitVec.ofNat 15 b.wp ++ b.activeWave ++
  BitVec.ofNat 1 (b.wp / winLen c) ++ BitVec.ofBool b.fatal ++ BitVec.ofBool (b.rcState != .waiting) ++
  BitVec.ofBool b.armed ++ BitVec.ofBool b.pending ++ BitVec.ofBool (b.engPhase != .idle) ++
  BitVec.ofBool b.outRun ++ BitVec.ofBool b.acqRun

/-- IRQ_STAT (R51). -/
def irqStatWord (b : Block) : Word := (0 : BitVec 23) ++ b.irqStat

/-- IRQ_EN (R51). -/
def irqEnWord (b : Block) : Word := (0 : BitVec 23) ++ b.irqEn

/-- REPORT_REQ (R53). -/
def reportReqWord (b : Block) : Word := BitVec.ofBool b.armed ++ (0 : BitVec 3) ++ b.reqStart ++ b.reqCount

/-- EVQ_POP (R56). -/
def evqWord (b : Block) : Word :=
  if b.evqValid then (1 : BitVec 1) ++ (0 : BitVec 15) ++ b.evqEntry.idx ++ b.evqEntry.cls else 0

/-- ID (R49). -/
def idWord (c : Config) : Word :=
  (0x07 : BitVec 7) ++ BitVec.ofNat 4 (c.nIn - 1) ++ BitVec.ofNat 8 (c.nWave - 1) ++ BitVec.ofNat 4 c.nSub ++
  BitVec.ofNat 5 c.sampleBits ++ BitVec.ofNat 4 c.lgN

/-- The bits of DB_STATE for the inputs below `n`: bit i says that input i debounces, bit 16+i its synchronized level. -/
def dbStateBits (b : Block) : Nat → Word
  | 0 => 0
  | n + 1 =>
    dbStateBits b n ||| ((BitVec.ofBool ((inputAt b n).st == .deb)).setWidth 32 <<< n) |||
      ((BitVec.ofBool (inputAt b n).s2).setWidth 32 <<< (16 + n))

/-- DB_STATE (R55). -/
def dbStateWord (c : Config) (b : Block) : Word := dbStateBits b c.nIn

/-- SUB_STAT(s) (R54). -/
def subStatWord (b : Block) (s : Nat) : Word :=
  (0 : BitVec 29) ++ BitVec.ofNat 1 (slotAt b s).latBank.toNat ++ BitVec.ofBool (validFlag b s) ++
  BitVec.ofBool (newFlag b s)

/-- RES(s, i) (R58): the word of the bank slot `s` latched. -/
def resWord (b : Block) (s i : Nat) : Word := rbAt b (slotAt b s).latBank i

/-- The 64-bit word of a report record: TAG, reserved, BIN or N14, VALUE or VER (spec/30_encoding.md R92). -/
def recordWord : Record → BitVec 64
  | .data bin value => (0b00 : BitVec 2) ++ (0 : BitVec 16) ++ bin ++ value
  | .fin count ver => (0b01 : BitVec 2) ++ (0 : BitVec 16) ++ count ++ ver
  | .abort count ver => (0b10 : BitVec 2) ++ (0 : BitVec 16) ++ count ++ ver

/-- Byte lane `k` of a data word, bits 8k+7..8k: little-endian (spec/20_memory.md R61). -/
def byteLane (w : Word) (k : Nat) : BitVec 8 := w.extractLsb' (8 * k) 8

end Sys2Proof.Machine
end

