-- ==== Sys2Proof/Machine/Commands.lean ====
section
/-! DEFINITION. The meanings of the commands (spec/40_host_commands.md). Each ends in the command step of R100: RESP takes
the opcode and the response code, and the write answers OKAY. -/

namespace Sys2Proof.Machine

open Sys2Proof

/-- NOP (R101). -/
def execNop (s : State) : Host.Outcome State Fault Refusal := .next (s.command s.blk 0x0 codeOk)

/-- The block after ACQ_START, and the response code (R102). -/
def acqStartEffect (c : Config) (b : Block) : Block × BitVec 8 :=
  if b.fatal then (b, codeHwFail)
  else if b.acqRun then (b, codeOk)
  else if c.initFail then (fatalPath b, codeHwFail)
  else ({ b with acqRun := true, wp := 0 }, codeOk)

/-- ACQ_START (R102). -/
def execAcqStart (s : State) : Host.Outcome State Fault Refusal :=
  .next (s.command (acqStartEffect s.cfg s.blk).1 0x1 (acqStartEffect s.cfg s.blk).2)

/-- The block after OUT_START, and the response code (R103). -/
def outStartEffect (c : Config) (b : Block) : Block × BitVec 8 :=
  if b.fatal then (b, codeHwFail)
  else if b.outRun then (b, codeOk)
  else if c.initFail then (fatalPath b, codeHwFail)
  else ({ b with outRun := true, op := 0 }, codeOk)

/-- OUT_START (R103). -/
def execOutStart (s : State) : Host.Outcome State Fault Refusal :=
  .next (s.command (outStartEffect s.cfg s.blk).1 0x2 (outStartEffect s.cfg s.blk).2)

/-- STOP (R104). -/
def execStop (s : State) : Host.Outcome State Fault Refusal :=
  .next (s.command { s.blk with acqRun := false, outRun := false } 0x3 codeOk)

/-- The block after SELECT_WAVE, and the response code (R105). -/
def selectWaveEffect (c : Config) (wave : BitVec 8) (b : Block) : Block × BitVec 8 :=
  if c.nWave ≤ wave.toNat then (b, codeBadWave) else ({ b with activeWave := wave, op := 0 }, codeOk)

/-- SELECT_WAVE (R105). -/
def execSelectWave (wave : BitVec 8) (s : State) : Host.Outcome State Fault Refusal :=
  .next (s.command (selectWaveEffect s.cfg wave s.blk).1 0x4 (selectWaveEffect s.cfg wave s.blk).2)

/-- The block after ARM_REPORT, and the response code (R106); the sum is exact. -/
def armReportEffect (c : Config) (start count : BinWord) (b : Block) : Block × BitVec 8 :=
  if count = 0 ∨ binCount c < start.toNat + count.toNat then (b, codeInvalidRange)
  else ({ b with reqStart := start, reqCount := count, armed := true }, codeOk)

/-- ARM_REPORT (R106). -/
def execArmReport (start count : BinWord) (s : State) : Host.Outcome State Fault Refusal :=
  .next (s.command (armReportEffect s.cfg start count s.blk).1 0x5 (armReportEffect s.cfg start count s.blk).2)

/-- The block after SUB_ACK, and the response code (R107). -/
def subAckEffect (c : Config) (sub : BitVec 4) (b : Block) : Block × BitVec 8 :=
  if sub = 0 ∨ c.nSub ≤ sub.toNat then (b, codeBadSub) else (consume b sub.toNat, codeOk)

/-- SUB_ACK (R107). -/
def execSubAck (sub : BitVec 4) (s : State) : Host.Outcome State Fault Refusal :=
  .next (s.command (subAckEffect s.cfg sub s.blk).1 0x6 (subAckEffect s.cfg sub s.blk).2)

/-- An assigned opcode with a reserved bit set (R83, R108). -/
def execIllegalReservedBits (w : Word) (s : State) : Host.Outcome State Fault Refusal :=
  .next (s.command s.blk (BitVec.ofNat 4 (field w 31 28)) codeIllegal)

/-- The reserved opcode 0x7, whatever its operand bits (R84, R108). -/
def execIllegalOp7 (_any : BitVec 28) (s : State) : Host.Outcome State Fault Refusal :=
  .next (s.command s.blk 0x7 codeIllegal)

/-- The reserved opcodes 0x8 to 0xF, whatever their operand bits (R84, R108). -/
def execIllegalOp8F (op : BitVec 4) (_any : BitVec 28) (s : State) : Host.Outcome State Fault Refusal :=
  .next (s.command s.blk op codeIllegal)

end Sys2Proof.Machine
end

