-- ==== Sys2Proof/Machine/Registers.lean ====
section
/-! DEFINITION. The meanings of the register accesses (spec/41_register_access.md). -/

namespace Sys2Proof.Machine

open Sys2Proof

/-- A write to CMD (R100): the data word is decoded and its command run, whatever the word. -/
def execWrCmd (data : Word) (s : State) : Host.Outcome State Fault Refusal :=
  match decodeCommand data with
  | .nop => execNop s
  | .acqStart => execAcqStart s
  | .outStart => execOutStart s
  | .stop => execStop s
  | .selectWave wave => execSelectWave wave s
  | .armReport start count => execArmReport start count s
  | .subAck sub => execSubAck sub s
  | .illegalReservedBits w => execIllegalReservedBits w s
  | .illegalOp7 any => execIllegalOp7 any s
  | .illegalOp8F op any => execIllegalOp8F op any s

/-- A read of CMD (R121): 0. -/
def execRdCmd (s : State) : Host.Outcome State Fault Refusal := .next (s.readOk 0)

/-- A read of RESP (R122). -/
def execRdResp (s : State) : Host.Outcome State Fault Refusal := .next (s.readOk (respWord s.blk))

/-- A read of STATUS (R123). -/
def execRdStatus (s : State) : Host.Outcome State Fault Refusal := .next (s.readOk (statusWord s.cfg s.blk))

/-- A read of IRQ_STAT (R124). -/
def execRdIrqStat (s : State) : Host.Outcome State Fault Refusal := .next (s.readOk (irqStatWord s.blk))

/-- A write of IRQ_STAT (R124): the bits of 8:0 written as 1 are cleared. -/
def execWrIrqStat (data : Word) (s : State) : Host.Outcome State Fault Refusal :=
  .next (s.answer (irqAck s.blk (data.setWidth 9)) (.write .okay))

/-- A read of IRQ_EN (R125). -/
def execRdIrqEn (s : State) : Host.Outcome State Fault Refusal := .next (s.readOk (irqEnWord s.blk))

/-- A write of IRQ_EN (R125): bits 8:0 are stored. -/
def execWrIrqEn (data : Word) (s : State) : Host.Outcome State Fault Refusal :=
  .next (s.answer { s.blk with irqEn := data.setWidth 9 } (.write .okay))

/-- A read of VERSION (R126). -/
def execRdVersion (s : State) : Host.Outcome State Fault Refusal := .next (s.readOk s.blk.version)

/-- A read of WINCNT (R126). -/
def execRdWincnt (s : State) : Host.Outcome State Fault Refusal := .next (s.readOk s.blk.wincnt)

/-- A read of OVR_CNT (R126). -/
def execRdOvrCnt (s : State) : Host.Outcome State Fault Refusal := .next (s.readOk s.blk.ovrCnt)

/-- A read of SKIP_CNT (R126). -/
def execRdSkipCnt (s : State) : Host.Outcome State Fault Refusal := .next (s.readOk s.blk.skipCnt)

/-- A read of DROP_CNT (R126). -/
def execRdDropCnt (s : State) : Host.Outcome State Fault Refusal := .next (s.readOk s.blk.dropCnt)

/-- A read of EVQ_POP (R128): the entry and the pop are one step, and the entry's bits stay. -/
def execRdEvqPop (s : State) : Host.Outcome State Fault Refusal :=
  .next (s.answer { s.blk with evqValid := false } (.read (evqWord s.blk) .okay))

/-- A read of REPORT_REQ (R129). -/
def execRdReportReq (s : State) : Host.Outcome State Fault Refusal := .next (s.readOk (reportReqWord s.blk))

/-- A read of RATE_DIV (R127). -/
def execRdRateDiv (s : State) : Host.Outcome State Fault Refusal := .next (s.readOk s.blk.rateDiv)

/-- A write of RATE_DIV (R127). -/
def execWrRateDiv (data : Word) (s : State) : Host.Outcome State Fault Refusal :=
  .next (s.answer { s.blk with rateDiv := data } (.write .okay))

/-- A read of ID (R130). -/
def execRdId (s : State) : Host.Outcome State Fault Refusal := .next (s.readOk (idWord s.cfg))

/-- A read of DB_STATE (R131). -/
def execRdDbState (s : State) : Host.Outcome State Fault Refusal := .next (s.readOk (dbStateWord s.cfg s.blk))

/-- The machine after a read of a register of slot `s`, which exists for slots below P_NSUB (R132, R133). -/
def State.readSlot (st : State) (s : Nat) (v : Word) : State := if s < st.cfg.nSub then st.readOk v else st.readError

/-- A read of SUB_STAT(s) (R132). -/
def execRdSubStat (s : BitVec 4) (st : State) : Host.Outcome State Fault Refusal :=
  .next (st.readSlot s.toNat (subStatWord st.blk s.toNat))

/-- A read of SUB_LATVER(s) (R133). -/
def execRdSubLatver (s : BitVec 4) (st : State) : Host.Outcome State Fault Refusal :=
  .next (st.readSlot s.toNat (slotAt st.blk s.toNat).latVer)

/-- The machine after a read of RES(s, i), which exists for 1 ≤ s < P_NSUB and i < N/2 (R134). -/
def State.readResult (st : State) (s i : Nat) : State :=
  if 1 ≤ s ∧ s < st.cfg.nSub ∧ i < binCount st.cfg then st.readOk (resWord st.blk s i) else st.readError

/-- A read of RES(s, i), s odd (R134). -/
def execRdResSodd (s : BitVec 4) (i : BinWord) (st : State) : Host.Outcome State Fault Refusal :=
  .next (st.readResult s.toNat i.toNat)

/-- A read of RES(s, i), s[1:0] = 0b10 (R134). -/
def execRdResS2 (s : BitVec 4) (i : BinWord) (st : State) : Host.Outcome State Fault Refusal :=
  .next (st.readResult s.toNat i.toNat)

/-- A read of RES(s, i), s[2:0] = 0b100 (R134). -/
def execRdResS4 (s : BitVec 4) (i : BinWord) (st : State) : Host.Outcome State Fault Refusal :=
  .next (st.readResult s.toNat i.toNat)

/-- A read of RES(s, i), s = 0b1000 (R134). -/
def execRdResS8 (s : BitVec 4) (i : BinWord) (st : State) : Host.Outcome State Fault Refusal :=
  .next (st.readResult s.toNat i.toNat)

/-- Every other access (R120): SLVERR, and data 0 on a read. Bit 20 of the key tells a write. -/
def execBusError (_width : Nat) (key : AccessKey) (_data : Word) (s : State) : Host.Outcome State Fault Refusal :=
  .next (if field key 20 20 = 1 then s.writeError else s.readError)

end Sys2Proof.Machine
end

