-- ==== Sys2Proof/Machine/Dispatch.lean ====
section
/-! DEFINITION. The meaning of every instruction: one arm for each row of spec/opcode_table.json. -/

namespace Sys2Proof.Machine

open Sys2Proof

def exec (i : Instr) (s : State) : Host.Outcome State Fault Refusal :=
  match i with
  | .nop => Sys2Proof.Machine.execNop s
  | .acqStart => Sys2Proof.Machine.execAcqStart s
  | .outStart => Sys2Proof.Machine.execOutStart s
  | .stop => Sys2Proof.Machine.execStop s
  | .selectWave wave => Sys2Proof.Machine.execSelectWave wave s
  | .armReport start count => Sys2Proof.Machine.execArmReport start count s
  | .subAck sub => Sys2Proof.Machine.execSubAck sub s
  | .illegalReservedBits w => Sys2Proof.Machine.execIllegalReservedBits w s
  | .illegalOp7 any => Sys2Proof.Machine.execIllegalOp7 any s
  | .illegalOp8F op any => Sys2Proof.Machine.execIllegalOp8F op any s
  | .wrCmd data => Sys2Proof.Machine.execWrCmd data s
  | .rdCmd => Sys2Proof.Machine.execRdCmd s
  | .rdResp => Sys2Proof.Machine.execRdResp s
  | .rdStatus => Sys2Proof.Machine.execRdStatus s
  | .rdIrqStat => Sys2Proof.Machine.execRdIrqStat s
  | .wrIrqStat data => Sys2Proof.Machine.execWrIrqStat data s
  | .rdIrqEn => Sys2Proof.Machine.execRdIrqEn s
  | .wrIrqEn data => Sys2Proof.Machine.execWrIrqEn data s
  | .rdVersion => Sys2Proof.Machine.execRdVersion s
  | .rdWincnt => Sys2Proof.Machine.execRdWincnt s
  | .rdOvrCnt => Sys2Proof.Machine.execRdOvrCnt s
  | .rdSkipCnt => Sys2Proof.Machine.execRdSkipCnt s
  | .rdDropCnt => Sys2Proof.Machine.execRdDropCnt s
  | .rdEvqPop => Sys2Proof.Machine.execRdEvqPop s
  | .rdReportReq => Sys2Proof.Machine.execRdReportReq s
  | .rdRateDiv => Sys2Proof.Machine.execRdRateDiv s
  | .wrRateDiv data => Sys2Proof.Machine.execWrRateDiv data s
  | .rdId => Sys2Proof.Machine.execRdId s
  | .rdDbState => Sys2Proof.Machine.execRdDbState s
  | .rdSubStat n => Sys2Proof.Machine.execRdSubStat n s
  | .rdSubLatver n => Sys2Proof.Machine.execRdSubLatver n s
  | .rdResSodd n k => Sys2Proof.Machine.execRdResSodd n k s
  | .rdResS2 n k => Sys2Proof.Machine.execRdResS2 n k s
  | .rdResS4 n k => Sys2Proof.Machine.execRdResS4 n k s
  | .rdResS8 n k => Sys2Proof.Machine.execRdResS8 n k s
  | .busError width key data => Sys2Proof.Machine.execBusError width key data s

end Sys2Proof.Machine
end

