-- ==== Sys2Proof/Machine/Run.lean ====
section
/-! DEFINITION. What a step of the machine runs: the picked agent's step, in a valid configuration. -/

namespace Sys2Proof.Machine

open Sys2Proof

/-- The step of the agent of `a` on a machine whose pick has been taken out. A HOST access is decoded and its
instruction run; any other agent makes its move (spec/00_scope.md R10). -/
def runAction (a : Action) (s : State) : Host.Outcome State Fault Refusal :=
  match a with
  | .host r => exec (decode r) s
  | .sample x => s.afterMove (agentMove s.cfg (.sample x) s.blk)
  | .engine => s.afterMove (agentMove s.cfg .engine s.blk)
  | .rc => s.afterMove (agentMove s.cfg .rc s.blk)
  | .rport => s.afterMove (agentMove s.cfg .rport s.blk)
  | .db pins tickEn => s.afterMove (agentMove s.cfg (.db pins tickEn) s.blk)
  | .reset => s.afterMove (agentMove s.cfg .reset s.blk)

/-- The step of the agent of `a`, where the configuration is one that there is a machine for
(spec/00_scope.md R6, R11). -/
def runValid (valid : Bool) (a : Action) (s : State) : Host.Outcome State Fault Refusal :=
  match valid with
  | true => runAction a s
  | false => .refused .invalidConfig

end Sys2Proof.Machine
end

