-- ==== Sys2Proof/Machine/Step.lean ====
section
/-! DEFINITION. One step of the machine: the next agent takes its step (spec/00_scope.md R10, R11). -/

namespace Sys2Proof.Machine

open Sys2Proof

/-- One agent step: the pick is taken out, and its agent's step is run in a valid configuration. -/
def step (s : State) : Host.Outcome State Fault Refusal :=
  runValid (configValid s.cfg) s.nextAction s.popAction

/-- `s` with the host access whose bits are `w` as its very next agent step (notes/assumptions/6.md); `s` itself where
the bits are no access. -/
def State.withFetchWord (s : State) (nbits w : Nat) : State :=
  match requestOfTableWord nbits w with
  | some r => s.withNext (.host r)
  | none => s

end Sys2Proof.Machine
end

