-- ==== Sys2Proof/Machine/Pseudo.lean ====
section
/-! DEFINITION. The pseudo-instructions of spec/30_encoding.md R94 as host programs: which access the host makes next
from the replies it has seen, what it gets from them, and a run of one with other agents' steps between its accesses
(notes/assumptions/19.md). -/

namespace Sys2Proof.Machine

open Sys2Proof

/-- A pseudo-instruction with its operands. -/
inductive Pseudo
  | startAll
  | subRead (s : BitVec 4) (k n : Nat)
  | subPoll (s : BitVec 4)
  | evqDrain
  | irqAck (m : Word)
  | setRate (d : Word)
  deriving DecidableEq, Repr

/-- The data that `RD ... -> name` binds (spec/30_encoding.md R93). A write returns none. -/
def replyData : Reply → Word
  | .read data _ => data
  | .write _ => 0

/-- The access EVQ_DRAIN makes after the replies `seen`: RD EVQ_POP, until the last entry has e[31] = 0. -/
def evqDrain (seen : List Reply) : Option Request :=
  match seen.getLast? with
  | none => some (encode .rdEvqPop)
  | some e => if (replyData e).getLsbD 31 then some (encode .rdEvqPop) else none

/-- The access the host makes next, with the replies `seen` to the accesses of `p` so far; none where `p` is done. -/
def nextAccess (p : Pseudo) (seen : List Reply) : Option Request :=
  match p with
  | .startAll => startAll[seen.length]?
  | .subRead s k n => (subRead s k n)[seen.length]?
  | .subPoll s => (subPoll s)[seen.length]?
  | .evqDrain => evqDrain seen
  | .irqAck m => (irqAckRequests m)[seen.length]?
  | .setRate d => (setRate d)[seen.length]?

/-- `v[0..n-1]` of SUB_READ: the data of the replies that follow the acknowledgement. -/
def subReadValues (n : Nat) (seen : List Reply) : List Word := ((seen.drop 1).take n).map replyData

/-- `ok` of SUB_READ: bit 1 (VALID) of the last read, SUB_STAT(s). -/
def subReadOk (n : Nat) (seen : List Reply) : Bool := ((seen[n + 1]?).map (fun t => (replyData t).getLsbD 1)).getD false

/-- `new` of SUB_POLL: bit 0 (NEW) of the read of SUB_STAT(s). -/
def subPollNew (seen : List Reply) : Bool := (seen.head?.map (fun t => (replyData t).getLsbD 0)).getD false

/-- A host that has come so far in a pseudo-instruction: whether it is done, what its accesses returned, the machine. -/
structure HostRun where
  done : Bool
  seen : List Reply
  machine : State
  deriving DecidableEq, Repr

/-- The steps `as`, each the very next one. -/
def runActions : List Action → State → Host.Outcome State Fault Refusal
  | [], s => .next s
  | a :: as, s =>
    match step (s.withNext a) with
    | .next t => runActions as t
    | .fault f => .fault f
    | .refused r => .refused r

/-- The host performs `p`, of which it has seen the replies `seen`: an access, then the steps of the first list of
`gaps`, then the next access, and so on, until `p` is done or no list is left. -/
def perform (p : Pseudo) : List (List Action) → List Reply → State → Host.Outcome HostRun Fault Refusal
  | [], seen, s => .next { done := (nextAccess p seen).isNone, seen := seen, machine := s }
  | gap :: gaps, seen, s =>
    match nextAccess p seen with
    | none => .next { done := true, seen := seen, machine := s }
    | some r =>
      match step (s.withNext (.host r)) with
      | .next t =>
        match runActions gap t with
        | .next u => perform p gaps (seen ++ t.replies.drop s.replies.length) u
        | .fault f => .fault f
        | .refused e => .refused e
      | .fault f => .fault f
      | .refused e => .refused e

end Sys2Proof.Machine
end

