-- ==== Sys2Proof/Safety.lean ====
section
/-! DEFINITION. The terms claims are stated in: what a host access comes to, the invariant every step keeps, the bound
that keeps the transform inside its words, and which part of the block a step may write. -/

namespace Sys2Proof.Machine

open Sys2Proof

/-! ### Completion of a host access -/

/-- The access `i` completes on `s`: the block becomes exactly `b`, the host is answered `r`, the only event is a change
of the interrupt level (spec/60_exceptions.md R237), and nothing else of the machine changes. -/
def Completes (i : Instr) (s : State) (b : Block) (r : Reply) : Prop :=
  ∃ t, exec i s = .next t ∧ t.blk = b ∧ t.replies = s.replies ++ [r] ∧ t.trace = s.trace ++ irqEvents s.blk b ∧
    t.cfg = s.cfg ∧ t.sched = s.sched ∧ t.drawn = s.drawn

/-- The agent step `a`, picked next on `s`, leaves the block exactly as `b` and emits `evs` and then a change of the
interrupt level; nothing else of the machine changes. -/
def Moves (a : Action) (s : State) (b : Block) (evs : List Event) : Prop :=
  ∃ t, step (s.withNext a) = .next t ∧ t.blk = b ∧ t.replies = s.replies ∧
    t.trace = s.trace ++ evs ++ irqEvents s.blk b ∧ t.cfg = s.cfg ∧ t.sched = s.sched ∧ t.drawn = s.drawn

/-- The engine's registers and memories (spec/10_state.md R33 to R35, R37 to R39). -/
def SameEngine (b b' : Block) : Prop :=
  b'.engPhase = b.engPhase ∧ b'.ldBank = b.ldBank ∧ b'.engI = b.engI ∧ b'.engStage = b.engStage ∧
    b'.engQ = b.engQ ∧ b'.x = b.x ∧ b'.rb = b.rb ∧ b'.front = b.front ∧ b'.version = b.version ∧
    b'.bankVer = b.bankVer

/-- The debounce unit's registers (R44, R45). -/
def SameDebounce (b b' : Block) : Prop :=
  b'.inputs = b.inputs ∧ b'.evqValid = b.evqValid ∧ b'.evqEntry = b.evqEntry

/-- The accesses that are reads without side effect (spec/20_memory.md R65). -/
def plainRead : Instr → Bool
  | .rdCmd => true
  | .rdResp => true
  | .rdStatus => true
  | .rdIrqStat => true
  | .rdIrqEn => true
  | .rdVersion => true
  | .rdWincnt => true
  | .rdOvrCnt => true
  | .rdSkipCnt => true
  | .rdDropCnt => true
  | .rdReportReq => true
  | .rdRateDiv => true
  | .rdId => true
  | .rdDbState => true
  | .rdSubStat _ => true
  | .rdSubLatver _ => true
  | .rdResSodd _ _ => true
  | .rdResS2 _ _ => true
  | .rdResS4 _ _ => true
  | .rdResS8 _ _ => true
  | .nop => false
  | .acqStart => false
  | .outStart => false
  | .stop => false
  | .selectWave _ => false
  | .armReport _ _ => false
  | .subAck _ => false
  | .illegalReservedBits _ => false
  | .illegalOp7 _ => false
  | .illegalOp8F _ _ => false
  | .wrCmd _ => false
  | .wrIrqStat _ => false
  | .wrIrqEn _ => false
  | .rdEvqPop => false
  | .wrRateDiv _ => false
  | .busError _ _ _ => false

/-- The command an access asks for: that of a command word, or of the data word of a write to CMD
(spec/40_host_commands.md R100). -/
def asCommand : Instr → Option Command
  | .nop => some .nop
  | .acqStart => some .acqStart
  | .outStart => some .outStart
  | .stop => some .stop
  | .selectWave wave => some (.selectWave wave)
  | .armReport start count => some (.armReport start count)
  | .subAck sub => some (.subAck sub)
  | .illegalReservedBits w => some (.illegalReservedBits w)
  | .illegalOp7 any => some (.illegalOp7 any)
  | .illegalOp8F op any => some (.illegalOp8F op any)
  | .wrCmd data => some (decodeCommand data)
  | .rdCmd => none
  | .rdResp => none
  | .rdStatus => none
  | .rdIrqStat => none
  | .wrIrqStat _ => none
  | .rdIrqEn => none
  | .wrIrqEn _ => none
  | .rdVersion => none
  | .rdWincnt => none
  | .rdOvrCnt => none
  | .rdSkipCnt => none
  | .rdDropCnt => none
  | .rdEvqPop => none
  | .rdReportReq => none
  | .rdRateDiv => none
  | .wrRateDiv _ => none
  | .rdId => none
  | .rdDbState => none
  | .rdSubStat _ => none
  | .rdSubLatver _ => none
  | .rdResSodd _ _ => none
  | .rdResS2 _ _ => none
  | .rdResS4 _ _ => none
  | .rdResS8 _ _ => none
  | .busError _ _ _ => none

/-- The delay of an input with registers `d` expires in the DB step, with the input still asserted, so that the step
pushes its event (spec/45_debounce_events.md R214): the synchronized level of the step is the old `s1`. -/
def pushesEvent (d : DbInput) (tickEn : Bool) : Bool :=
  d.st == .deb && !(d.s1 && !d.s2) && tickEn && decide (d.cnt.toNat ≤ 1) && d.s1

/-! ### The invariant -/

/-- The level of the last IRQ event of a trace; 0 where there is none (spec/60_exceptions.md R237). -/
def lastIrq (trace : List Event) : Bool :=
  trace.foldl (fun level e => match e with | .irq l => l | .out _ => level | .rpt _ => level) false

/-- A record whose bin or count lies in a spectrum of `n` bins. -/
def recordWithin (n : Nat) : Record → Prop
  | .data bin _ => bin.toNat < n
  | .fin count _ => count.toNat ≤ n
  | .abort count _ => count.toNat ≤ n

/-- What holds of the machine after every step: the ranges spec/10_state.md gives its elements, the canonical form of
the internal memories, and the relations of R39, R41 and R59. -/
structure Inv (s : State) : Prop where
  /-- The configuration is valid (spec/00_scope.md R6). -/
  cfg_valid : configValid s.cfg = true
  /-- The internal memories are in canonical form. -/
  memories_wf : s.blk.sb.wf 0 = true ∧ s.blk.x.wf Cplx.zero = true ∧ s.blk.rb.b0.wf 0 = true ∧
    s.blk.rb.b1.wf 0 = true ∧ s.blk.slots.wf Latch.atReset = true ∧ s.blk.inputs.wf DbInput.atReset = true
  /-- No memory holds a word beyond its size (spec/20_memory.md R75). -/
  memories_bounded : (∀ j, 2 * winLen s.cfg ≤ j → sbAt s.blk j = 0) ∧
    (∀ k, winLen s.cfg ≤ k → xAt s.blk k = Cplx.zero) ∧
    (∀ bank k, binCount s.cfg ≤ k → rbAt s.blk bank k = 0) ∧
    (∀ n, s.cfg.nSub ≤ n → slotAt s.blk n = Latch.atReset) ∧
    (∀ i, s.cfg.nIn ≤ i → inputAt s.blk i = DbInput.atReset)
  /-- A sample word has P_B bits (R27). -/
  samples_fit : ∀ j, (sbAt s.blk j).toNat < 2 ^ s.cfg.sampleBits
  /-- R24, R25, R28 -/
  indices : s.blk.wp < 2 * winLen s.cfg ∧ s.blk.op < winLen s.cfg ∧ s.blk.activeWave.toNat < s.cfg.nWave
  /-- R59(a): the bank being written is not complete. -/
  write_bank_incomplete : s.blk.acqRun = true → s.blk.wp % winLen s.cfg ≠ 0 →
    s.blk.bankOk.get (Bank.ofIndex (s.blk.wp / winLen s.cfg)) = false
  /-- R59(b): the bank being loaded is complete and untouched. -/
  load_bank_complete : s.blk.engPhase = .load → s.blk.bankOk.get s.blk.ldBank = true
  /-- R34 -/
  engine_indices : s.blk.engI ≤ winLen s.cfg ∧ 1 ≤ s.blk.engStage ∧ s.blk.engStage ≤ s.cfg.lgN ∧
    s.blk.engQ < binCount s.cfg
  /-- R172: a LOAD step has a sample left to load. -/
  load_index : s.blk.engPhase = .load → s.blk.engI < winLen s.cfg
  /-- R178: a MAG step has a bin left to write. -/
  mag_index : s.blk.engPhase = .mag → s.blk.engI < binCount s.cfg
  /-- R39, R59(c): the front bank carries the current version. -/
  front_stamp : s.blk.bankVer.get s.blk.front = s.blk.version
  /-- R176: while the back bank is written it carries the version to come. -/
  back_stamp : s.blk.engPhase = .mag ∨ s.blk.engPhase = .pub →
    s.blk.bankVer.get s.blk.front.other = s.blk.version + 1
  /-- R41: an armed request is a range of the spectrum. -/
  armed_range : s.blk.armed = true →
    1 ≤ s.blk.reqCount.toNat ∧ s.blk.reqStart.toNat + s.blk.reqCount.toNat ≤ binCount s.cfg
  /-- R200: the request being emitted is a range of the spectrum. -/
  emit_range : s.blk.rcState = .emit → 1 ≤ s.blk.rcCount.toNat ∧
    s.blk.rcStart.toNat + s.blk.rcCount.toNat ≤ binCount s.cfg ∧ s.blk.rcIdx ≤ s.blk.rcCount.toNat
  /-- spec/30_encoding.md R92 -/
  record_range : ∀ r, s.blk.rptOut = some r → recordWithin (binCount s.cfg) r
  /-- spec/70_reset_and_hazards.md R264: a failed block stays halted. -/
  fatal_halts : s.blk.fatal = true → s.blk.acqRun = false ∧ s.blk.outRun = false
  /-- spec/30_encoding.md R88 -/
  event_range : s.blk.evqValid = true → s.blk.evqEntry.cls = 0x01 ∧ s.blk.evqEntry.idx.toNat < s.cfg.nIn
  /-- R52: the codes 0x06 to 0xFF are never produced. -/
  resp_range : s.blk.respCode.toNat ≤ 5
  /-- R44: a debounce delay that runs has ticks left. -/
  debounce_range : ∀ i, (inputAt s.blk i).cnt.toNat ≤ s.cfg.dbDelay ∧
    ((inputAt s.blk i).st = .deb → 1 ≤ (inputAt s.blk i).cnt.toNat)
  /-- spec/60_exceptions.md R237: the last IRQ event told the present level. -/
  irq_told : lastIrq s.trace = irqLevel s.blk

/-! ### The bound that keeps the transform inside SInt_32 -/

/-- The modulus of a word of S.X is at most `bound`. -/
def Cplx.within (z : Cplx) (bound : ℚ) : Prop := (z.re.toInt : ℚ) ^ 2 + (z.im.toInt : ℚ) ^ 2 ≤ bound ^ 2

/-- The bound on the modulus of every element after stage `n` (spec/43_transform.md R177): `M_0 + 1` is at most
2^(P_B+P_G), and a stage multiplies `M + 1` by at most `2 + 2^(-P_T)`. The rule's own constant for the two roundings is
√2/2 where this one takes 1 (notes/assumptions/14.md). -/
def stageBound (c : Config) (n : Nat) : ℚ := (2 + 1 / 2 ^ c.twBits) ^ n * 2 ^ (c.sampleBits + c.guardBits) - 1

/-- The butterfly of stage `s ≥ 1` that element `k` is in (spec/43_transform.md R174). -/
def butterflyOf (s k : Nat) : Nat := k / 2 ^ s * 2 ^ (s - 1) + k % 2 ^ (s - 1)

/-- Every element of S.X that the running job has written is within the bound of the last stage that has combined it: in
LOAD that of stage 0; in FFT that of the present stage where its butterfly of the stage has run, and of the stage before
where it has not; in MAG that of the last stage. -/
def TransformBounded (s : State) : Prop :=
  (s.blk.engPhase = .load → ∀ i, i < s.blk.engI → (xAt s.blk (bitrev s.cfg.lgN i)).within (stageBound s.cfg 0)) ∧
  (s.blk.engPhase = .fft → ∀ k, k < winLen s.cfg → (xAt s.blk k).within
    (stageBound s.cfg
      (if butterflyOf s.blk.engStage k < s.blk.engQ then s.blk.engStage else s.blk.engStage - 1))) ∧
  (s.blk.engPhase = .mag → ∀ k, k < winLen s.cfg → (xAt s.blk k).within (stageBound s.cfg s.cfg.lgN))

end Sys2Proof.Machine
end

