-- ==== Sys2Proof/Certificates/Slice0/Obligations.lean ====
section
/-! DEFINITION. The statements for the provers. A docstring says which rule of spec/ a statement formalises; the
hypotheses are on the state and the operands alone. -/

open Sys2Proof Sys2Proof.Machine

/-! ### Encoding -/

/-- spec/30_encoding.md R82, R85, R86: decoding the encoding of a well-formed instruction gives it back, with every
operand at every value its row admits. -/
def Obligations.DecodeInvertsEncode : Prop := ∀ i : Instr, i.wf = true → decode (encode i) = i

/-- spec/30_encoding.md R80 to R84: each command word has one meaning, and the word of that command is the word itself. -/
def Obligations.EncodeCommandInvertsDecode : Prop := ∀ w : Word, encodeCommand (decodeCommand w) = w

/-- spec/30_encoding.md R83 to R85: whatever the host presents decodes to an instruction that its row describes; in
particular BUS_ERROR stands only for an access that no other row matches, and an ILLEGAL row only for a word of its own. -/
def Obligations.DecodeIsWellFormed : Prop := ∀ r : Request, (decode r).wf = true

/-- spec/30_encoding.md R95: the worked encodings, and the words of two illegal commands (R84). -/
def Obligations.WorkedCommandEncodings : Prop :=
  decode (.command 0x00000000) = .nop ∧
  decode (.command 0x10000000) = .acqStart ∧
  decode (.command 0x20000000) = .outStart ∧
  decode (.command 0x30000000) = .stop ∧
  decode (.command 0x40000001) = .selectWave 1 ∧
  decode (.command 0x50000002) = .armReport 0 2 ∧
  decode (.command 0x5000C004) = .armReport 3 4 ∧
  decode (.command 0x50000080) = .armReport 0 128 ∧
  decode (.command 0x60000001) = .subAck 1 ∧
  decode (.command 0x40000100) = .illegalReservedBits 0x40000100 ∧
  decode (.command 0x70000000) = .illegalOp7 0 ∧
  decode (.command 0xFFFFFFFF) = .illegalOp8F 0xF 0xFFFFFFF

/-! ### Running what is presented -/

/-- When the next pick is a host access that decodes to a well-formed instruction, a step is that instruction's meaning
on the machine with the pick taken out, and nothing is added around it (spec/00_scope.md R10; the schedule is the
model's, notes/assumptions/1.md). -/
def Obligations.StepRunsDecodedAccess : Prop :=
  ∀ (s : State) (r : Request) (rest : List Action) (i : Instr), configValid s.cfg = true → s.sched = .host r :: rest →
    decode r = i → i.wf = true → step s = exec i { s with sched := rest }

/-- spec/40_host_commands.md R100: every word written to CMD is one command step, which answers OKAY, records the opcode
w[31:28] and the code of the command the word asks for, and leaves what that command leaves. -/
def Obligations.WriteToCmdRunsCommand : Prop :=
  ∀ (w : Word) (s : State), ∃ t, exec (.wrCmd w) s = .next t ∧ exec (decodeCommand w).instr s = .next t ∧
    t.replies = s.replies ++ [.write .okay] ∧ t.blk.respOp = w.extractLsb' 28 4 ∧ t.cfg = s.cfg ∧ t.sched = s.sched

/-! ### The commands -/

/-- spec/40_host_commands.md R101, R108: NOP, and every command word of a reserved opcode or with a reserved bit set,
complete and write RESP alone; so do the three rows such words fall under. -/
def Obligations.NopAndIllegalWriteOnlyResp : Prop :=
  decode (.command 0x00000000) = .nop ∧
  ∀ s : State,
    Completes .nop s { s.blk with respOp := 0x0, respCode := 0x00 } (.write .okay) ∧
    (∀ w : Word, let op := (w.extractLsb' 28 4).toNat
      7 ≤ op ∨ (op ≤ 3 ∧ w.extractLsb' 0 28 ≠ 0) ∨ (op = 4 ∧ w.extractLsb' 8 20 ≠ 0) ∨ (op = 6 ∧ w.extractLsb' 4 24 ≠ 0) →
      Completes (decode (.command w)) s { s.blk with respOp := w.extractLsb' 28 4, respCode := 0x01 } (.write .okay)) ∧
    (∀ w, Completes (.illegalReservedBits w) s { s.blk with respOp := w.extractLsb' 28 4, respCode := 0x01 }
      (.write .okay)) ∧
    (∀ any, Completes (.illegalOp7 any) s { s.blk with respOp := 0x7, respCode := 0x01 } (.write .okay)) ∧
    (∀ op any, Completes (.illegalOp8F op any) s { s.blk with respOp := op, respCode := 0x01 } (.write .okay))

/-- spec/40_host_commands.md R102 with spec/42_acquisition_output.md R146: the four cases of ACQ_START, in the order of
the rule, and everything it leaves unchanged. -/
def Obligations.AcqStartEffect : Prop :=
  decode (.command 0x10000000) = .acqStart ∧ ∀ s : State, Completes .acqStart s
    (if s.blk.fatal then { s.blk with respOp := 0x1, respCode := 0x04 }
     else if s.blk.acqRun then { s.blk with respOp := 0x1, respCode := 0x00 }
     else if s.cfg.initFail then
       { s.blk with fatal := true, acqRun := false, outRun := false, irqStat := s.blk.irqStat ||| 0x100,
                    respOp := 0x1, respCode := 0x04 }
     else { s.blk with acqRun := true, wp := 0, respOp := 0x1, respCode := 0x00 })
    (.write .okay)

/-- spec/40_host_commands.md R103 with spec/42_acquisition_output.md R146: the four cases of OUT_START. -/
def Obligations.OutStartEffect : Prop :=
  decode (.command 0x20000000) = .outStart ∧ ∀ s : State, Completes .outStart s
    (if s.blk.fatal then { s.blk with respOp := 0x2, respCode := 0x04 }
     else if s.blk.outRun then { s.blk with respOp := 0x2, respCode := 0x00 }
     else if s.cfg.initFail then
       { s.blk with fatal := true, acqRun := false, outRun := false, irqStat := s.blk.irqStat ||| 0x100,
                    respOp := 0x2, respCode := 0x04 }
     else { s.blk with outRun := true, op := 0, respOp := 0x2, respCode := 0x00 })
    (.write .okay)

/-- spec/40_host_commands.md R104: STOP clears both run bits and writes RESP, whatever the state, and nothing else. -/
def Obligations.StopEffect : Prop :=
  decode (.command 0x30000000) = .stop ∧ ∀ s : State,
    Completes .stop s { s.blk with acqRun := false, outRun := false, respOp := 0x3, respCode := 0x00 } (.write .okay)

/-- spec/40_host_commands.md R105: SELECT_WAVE of a catalog entry selects it and restarts at sample 0; of any other
number it is BAD_WAVE with no state change. -/
def Obligations.SelectWaveEffect : Prop :=
  ∀ (wave : BitVec 8) (s : State), decode (.command (0x400000#24 ++ wave)) = .selectWave wave ∧
    Completes (.selectWave wave) s
    (if wave.toNat < s.cfg.nWave then { s.blk with activeWave := wave, op := 0, respOp := 0x4, respCode := 0x00 }
     else { s.blk with respOp := 0x4, respCode := 0x03 })
    (.write .okay)

/-- spec/40_host_commands.md R106: ARM_REPORT of a range of the spectrum replaces the request; COUNT = 0 or an exact sum
over N/2 is INVALID_RANGE with no state change. -/
def Obligations.ArmReportEffect : Prop :=
  ∀ (start count : BinWord) (s : State), decode (.command (0x5#4 ++ start ++ count)) = .armReport start count ∧
    Completes (.armReport start count) s
    (if count.toNat = 0 ∨ start.toNat + count.toNat > 2 ^ s.cfg.lgN / 2 then
       { s.blk with respOp := 0x5, respCode := 0x02 }
     else { s.blk with reqStart := start, reqCount := count, armed := true, respOp := 0x5, respCode := 0x00 })
    (.write .okay)

/-- spec/40_host_commands.md R107: SUB_ACK of a host slot latches the front bank and the version in that slot and no
other; of slot 0 or of no slot it is BAD_SUB with no state change. -/
def Obligations.SubAckEffect : Prop :=
  ∀ (sub : BitVec 4) (s : State), decode (.command (0x6000000#28 ++ sub)) = .subAck sub ∧
    ∃ b, Completes (.subAck sub) s b (.write .okay) ∧
    (if sub.toNat = 0 ∨ s.cfg.nSub ≤ sub.toNat then b = { s.blk with respOp := 0x6, respCode := 0x05 }
     else b = { s.blk with slots := b.slots, respOp := 0x6, respCode := 0x00 } ∧
       slotAt b sub.toNat = { seenVer := s.blk.version, latBank := s.blk.front, latVer := s.blk.version } ∧
       ∀ n, n ≠ sub.toNat → slotAt b n = slotAt s.blk n)

/-! ### The register accesses -/

/-- spec/41_register_access.md R121, R122, R126, R129, R130 with spec/10_state.md R48, R49, R52, R53, R57: each of these
registers is read at its offset, returns its fields with OKAY and changes nothing. -/
def Obligations.RegisterReadsReturnFields : Prop :=
  decode (readAt 0x00000) = .rdCmd ∧ decode (readAt 0x00004) = .rdResp ∧ decode (readAt 0x00014) = .rdVersion ∧
  decode (readAt 0x00018) = .rdWincnt ∧ decode (readAt 0x0001C) = .rdOvrCnt ∧ decode (readAt 0x00020) = .rdSkipCnt ∧
  decode (readAt 0x00024) = .rdDropCnt ∧ decode (readAt 0x0002C) = .rdReportReq ∧ decode (readAt 0x00034) = .rdId ∧
  ∀ s : State,
    Completes .rdCmd s s.blk (.read 0 .okay) ∧
    Completes .rdResp s s.blk (.read (0#20 ++ s.blk.respOp ++ s.blk.respCode) .okay) ∧
    Completes .rdVersion s s.blk (.read s.blk.version .okay) ∧
    Completes .rdWincnt s s.blk (.read s.blk.wincnt .okay) ∧
    Completes .rdOvrCnt s s.blk (.read s.blk.ovrCnt .okay) ∧
    Completes .rdSkipCnt s s.blk (.read s.blk.skipCnt .okay) ∧
    Completes .rdDropCnt s s.blk (.read s.blk.dropCnt .okay) ∧
    Completes .rdReportReq s s.blk
      (.read (BitVec.ofBool s.blk.armed ++ 0#3 ++ s.blk.reqStart ++ s.blk.reqCount) .okay) ∧
    (∃ v : Word, Completes .rdId s s.blk (.read v .okay) ∧ v.extractLsb' 0 4 = BitVec.ofNat 4 s.cfg.lgN ∧
      v.extractLsb' 4 5 = BitVec.ofNat 5 s.cfg.sampleBits ∧ v.extractLsb' 9 4 = BitVec.ofNat 4 s.cfg.nSub ∧
      v.extractLsb' 13 8 = BitVec.ofNat 8 (s.cfg.nWave - 1) ∧ v.extractLsb' 21 4 = BitVec.ofNat 4 (s.cfg.nIn - 1) ∧
      v.extractLsb' 25 7 = 0x07)

/-- spec/41_register_access.md R123 with spec/10_state.md R50: a read of STATUS returns the live fields with OKAY and
changes nothing; a write is SLVERR. -/
def Obligations.StatusReadReturnsLiveFields : Prop :=
  decode (readAt 0x00008) = .rdStatus ∧
  (∀ (data : Word) (s : State), Completes (decode (writeAt 0x00008 data)) s s.blk (.write .slverr)) ∧
  ∀ s : State, ∃ v : Word, Completes .rdStatus s s.blk (.read v .okay) ∧
    v.getLsbD 0 = s.blk.acqRun ∧ v.getLsbD 1 = s.blk.outRun ∧ v.getLsbD 2 = decide (s.blk.engPhase ≠ .idle) ∧
    v.getLsbD 3 = s.blk.pending ∧ v.getLsbD 4 = s.blk.armed ∧ v.getLsbD 5 = decide (s.blk.rcState ≠ .waiting) ∧
    v.getLsbD 6 = s.blk.fatal ∧ v.extractLsb' 7 1 = BitVec.ofNat 1 (s.blk.wp / 2 ^ s.cfg.lgN) ∧
    v.extractLsb' 8 8 = s.blk.activeWave ∧ v.extractLsb' 16 15 = BitVec.ofNat 15 s.blk.wp ∧
    v.getLsbD 31 = s.blk.rptOut.isSome

/-- spec/41_register_access.md R131 with spec/10_state.md R55: a read of DB_STATE returns for each input its debounce bit
and its synchronized level, every other bit zero, and changes nothing. -/
def Obligations.DbStateReadReturnsInputs : Prop :=
  decode (readAt 0x00038) = .rdDbState ∧ ∀ s : State, s.cfg.nIn ≤ 16 → ∃ v : Word, Completes .rdDbState s s.blk (.read v .okay) ∧
    ∀ i, i < 16 →
      v.getLsbD i = decide (i < s.cfg.nIn ∧ (inputAt s.blk i).st = .deb) ∧
      v.getLsbD (16 + i) = decide (i < s.cfg.nIn ∧ (inputAt s.blk i).s2 = true)

/-- spec/41_register_access.md R128 with spec/10_state.md R56: a read of EVQ_POP returns the entry and empties the queue
in one step; of the empty queue it returns 0 and changes nothing. A write is SLVERR and does not pop. That the entry's bits
stay after the pop is R128's, which spec/93_implementation_defined.md does not repeat (notes/assumptions/12.md). -/
def Obligations.EvqPopReturnsAndEmpties : Prop :=
  decode (readAt 0x00028) = .rdEvqPop ∧
  (∀ (data : Word) (s : State), Completes (decode (writeAt 0x00028 data)) s s.blk (.write .slverr)) ∧
  ∀ s : State, Completes .rdEvqPop s { s.blk with evqValid := false }
    (.read (if s.blk.evqValid then 1#1 ++ 0#15 ++ s.blk.evqEntry.idx ++ s.blk.evqEntry.cls else 0) .okay)

/-- spec/41_register_access.md R124, R125, R127 with spec/10_state.md R51: IRQ_STAT, IRQ_EN and RATE_DIV read as their
value; a write of IRQ_STAT clears the bits written as 1, a write of IRQ_EN stores bits 8:0, a write of RATE_DIV stores the
word. Each answers OKAY and changes nothing else. -/
def Obligations.ReadWriteRegisters : Prop :=
  ∀ (w : Word) (s : State),
    decode (readAt 0x0000C) = .rdIrqStat ∧ decode (writeAt 0x0000C w) = .wrIrqStat w ∧
    decode (readAt 0x00010) = .rdIrqEn ∧ decode (writeAt 0x00010 w) = .wrIrqEn w ∧
    decode (readAt 0x00030) = .rdRateDiv ∧ decode (writeAt 0x00030 w) = .wrRateDiv w ∧
    Completes .rdIrqStat s s.blk (.read (0#23 ++ s.blk.irqStat) .okay) ∧
    Completes (.wrIrqStat w) s { s.blk with irqStat := s.blk.irqStat &&& ~~~(w.extractLsb' 0 9) } (.write .okay) ∧
    Completes .rdIrqEn s s.blk (.read (0#23 ++ s.blk.irqEn) .okay) ∧
    Completes (.wrIrqEn w) s { s.blk with irqEn := w.extractLsb' 0 9 } (.write .okay) ∧
    Completes .rdRateDiv s s.blk (.read s.blk.rateDiv .okay) ∧
    Completes (.wrRateDiv w) s { s.blk with rateDiv := w } (.write .okay)

/-- spec/41_register_access.md R132, R133 with spec/10_state.md R54: the reads of a slot's registers, and SLVERR with data
0 where there is no such slot; nothing changes. -/
def Obligations.SubscriberReads : Prop :=
  ∀ (n : BitVec 4) (data : Word) (s : State),
    decode (readAt (0x00080 + 8 * n.toNat)) = .rdSubStat n ∧ decode (readAt (0x00084 + 8 * n.toNat)) = .rdSubLatver n ∧
    Completes (decode (writeAt (0x00080 + 8 * n.toNat) data)) s s.blk (.write .slverr) ∧
    Completes (decode (writeAt (0x00084 + 8 * n.toNat) data)) s s.blk (.write .slverr) ∧
    Completes (.rdSubStat n) s s.blk
      (if n.toNat < s.cfg.nSub then
        .read (0#29 ++ BitVec.ofNat 1 (slotAt s.blk n.toNat).latBank.toNat ++
          BitVec.ofBool (decide (s.blk.bankVer.get (slotAt s.blk n.toNat).latBank = (slotAt s.blk n.toNat).latVer)) ++
          BitVec.ofBool (decide (s.blk.version ≠ (slotAt s.blk n.toNat).seenVer))) .okay
       else .read 0 .slverr) ∧
    Completes (.rdSubLatver n) s s.blk
      (if n.toNat < s.cfg.nSub then .read (slotAt s.blk n.toNat).latVer .okay else .read 0 .slverr)

/-- spec/41_register_access.md R134 with spec/10_state.md R58: a read of RES(s, i) returns word i of the bank the slot
latched, unhalved, and SLVERR with data 0 where s or i is out of range; nothing changes. -/
def Obligations.ResultReads : Prop :=
  ∀ (n : BitVec 4) (k : BinWord) (data : Word) (s : State),
    let r : Reply := if 1 ≤ n.toNat ∧ n.toNat < s.cfg.nSub ∧ k.toNat < 2 ^ s.cfg.lgN / 2 then
        .read (rbAt s.blk (slotAt s.blk n.toNat).latBank k.toNat) .okay
      else .read 0 .slverr
    (∀ i, i = .rdResSodd n k ∨ i = .rdResS2 n k ∨ i = .rdResS4 n k ∨ i = .rdResS8 n k → Completes i s s.blk r) ∧
    (1 ≤ n.toNat → Completes (decode (readAt (0x10000 * n.toNat + 4 * k.toNat))) s s.blk r ∧
      Completes (decode (writeAt (0x10000 * n.toNat + 4 * k.toNat) data)) s s.blk (.write .slverr))

/-- spec/41_register_access.md R120 with spec/20_memory.md R62 to R64: every other access answers SLVERR, with data 0 on a
read, and changes no state. -/
def Obligations.BusErrorChangesNothing : Prop :=
  ∀ (width : Nat) (key : AccessKey) (data : Word) (s : State), Completes (.busError width key data) s s.blk
    (if key.getLsbD 20 then .write .slverr else .read 0 .slverr)

/-- spec/20_memory.md R62 to R64, spec/41_register_access.md R120: an access of another width than 32 bits, to an
unaligned or unlisted address, or a write to a read-only register, answers SLVERR, with data 0 on a read, and changes no
state; every other access answers OKAY, a read of it other than of EVQ_POP changes no state either, and CMD reads as 0. -/
def Obligations.OnlyListedAccessesAreOkay : Prop :=
  ∀ (width : Nat) (key : AccessKey) (data : Word) (s : State), configValid s.cfg = true →
    let addr := (key.extractLsb' 0 20).toNat
    let write := key.getLsbD 20
    let unlisted := (0x0003C ≤ addr ∧ addr ≤ 0x0007F) ∨ (0x000F8 ≤ addr ∧ addr ≤ 0x0FFFF) ∨ 0xF0000 ≤ addr ∨
      (0x00080 ≤ addr ∧ addr ≤ 0x000F7 ∧ s.cfg.nSub ≤ (addr - 0x00080) / 8) ∨
      (0x10000 ≤ addr ∧ (s.cfg.nSub ≤ addr / 0x10000 ∨ 2 ^ s.cfg.lgN / 2 ≤ addr % 0x10000 / 4))
    let readOnly := addr ≠ 0x00000 ∧ addr ≠ 0x0000C ∧ addr ≠ 0x00010 ∧ addr ≠ 0x00030
    if width ≠ 32 ∨ addr % 4 ≠ 0 ∨ unlisted ∨ (write = true ∧ readOnly) then
      Completes (decode (.access width key data)) s s.blk (if write then .write .slverr else .read 0 .slverr)
    else ∃ b v, Completes (decode (.access width key data)) s b (if write then .write .okay else .read v .okay) ∧
      (write = false → addr ≠ 0x00028 → b = s.blk) ∧ (write = false → addr = 0x00000 → v = 0)

/-- spec/20_memory.md R65: a read other than of EVQ_POP changes nothing, so that reading twice returns the same. -/
def Obligations.PlainReadsAreIdempotent : Prop :=
  ∀ (i : Instr) (s t u : State), plainRead i = true → exec i s = .next t → exec i t = .next u →
    t.blk = s.blk ∧ t.trace = s.trace ∧ u.blk = s.blk ∧
    ∃ rep, t.replies = s.replies ++ [rep] ∧ u.replies = s.replies ++ [rep, rep]

/-- spec/43_transform.md R185, spec/45_debounce_events.md R219, spec/20_memory.md R65, R74: no host access changes a
register or memory of the engine (spec/10_state.md R33 to R35), nor the result banks, the front bank, the version and the
stamps (R37 to R39), nor the debounce machines; it can only take an event out of the queue. The subscriber latches (R40)
are not among these: SUB_ACK writes them. That the queue's entry keeps its bits through the pop is the model's
reading (notes/assumptions/12.md). -/
def Obligations.HostNeverTouchesEngine : Prop :=
  ∀ (i : Instr) (s t : State), exec i s = .next t →
    SameEngine s.blk t.blk ∧ t.blk.inputs = s.blk.inputs ∧ t.blk.evqEntry = s.blk.evqEntry ∧
    (t.blk.evqValid = true → s.blk.evqValid = true)

/-- spec/60_exceptions.md R243, spec/44_publication_report.md R199, R200, spec/70_reset_and_hazards.md R260: of the host's
accesses only SELECT_WAVE writes the active waveform and only ARM_REPORT the report request; no register write reaches
them. Of all steps besides these, RESET writes both, RC_CHECK clears the armed bit alone, and an aborted report arms its
own range again. -/
def Obligations.HostMutatorsAreTheOnlyOnes : Prop :=
  (∀ (i : Instr) (s t : State), exec i s = .next t →
    (t.blk.activeWave ≠ s.blk.activeWave → ∃ wave, asCommand i = some (.selectWave wave)) ∧
    ((t.blk.reqStart ≠ s.blk.reqStart ∨ t.blk.reqCount ≠ s.blk.reqCount ∨ t.blk.armed ≠ s.blk.armed) →
      ∃ start count, asCommand i = some (.armReport start count))) ∧
  ∀ s t : State, step s = .next t →
    (t.blk.activeWave ≠ s.blk.activeWave →
      s.nextAction = .reset ∨
      ∃ r wave, s.nextAction = .host r ∧ asCommand (decode r) = some (.selectWave wave) ∧ t.blk.activeWave = wave) ∧
    ((t.blk.reqStart ≠ s.blk.reqStart ∨ t.blk.reqCount ≠ s.blk.reqCount ∨ t.blk.armed ≠ s.blk.armed) →
      s.nextAction = .reset ∨
      (∃ r start count, s.nextAction = .host r ∧ asCommand (decode r) = some (.armReport start count) ∧
        t.blk.reqStart = start ∧ t.blk.reqCount = count ∧ t.blk.armed = true) ∨
      (s.nextAction = .rc ∧ s.blk.rcState = .check ∧ s.blk.armed = true ∧ t.blk.armed = false ∧
        t.blk.reqStart = s.blk.reqStart ∧ t.blk.reqCount = s.blk.reqCount) ∨
      (s.nextAction = .rc ∧ s.blk.rcState = .emit ∧
        s.blk.bankVer.get (slotAt s.blk 0).latBank ≠ (slotAt s.blk 0).latVer ∧ s.blk.armed = false ∧
        t.blk.armed = true ∧ t.blk.reqStart = s.blk.rcStart ∧ t.blk.reqCount = s.blk.rcCount))

/-! ### The SAMPLE agent -/

/-- spec/42_acquisition_output.md R144, R145: a tick with acquisition stopped emits the next sample of the active waveform
and advances the index cyclically while output runs, and has no effect while it does not. That the tick without an effect is
a step at all is the model's form of R145 (notes/assumptions/16.md). -/
def Obligations.TickStreamsWaveform : Prop :=
  ∀ (x : Sample) (s : State), configValid s.cfg = true → s.blk.acqRun = false →
    Moves (.sample x) s
      (if s.blk.outRun then { s.blk with op := (s.blk.op + 1) % 2 ^ s.cfg.lgN } else s.blk)
      (if s.blk.outRun then [.out (waveRomWord s.cfg s.blk.activeWave.toNat s.blk.op)] else [])

/-- spec/42_acquisition_output.md R141 to R143: what a tick does to an acquiring block: the sample stored, the bank's
completeness, the load abort, the strobe with its counts and its interrupt bits, and all it leaves unchanged. -/
def Obligations.TickAcquiresSample : Prop :=
  ∀ (x : Sample) (s : State), configValid s.cfg = true → s.blk.acqRun = true →
    let n := 2 ^ s.cfg.lgN
    let bank := Bank.ofIndex (s.blk.wp / n)
    let complete := s.blk.wp % n = n - 1
    let aborted := s.blk.engPhase = .load ∧ s.blk.ldBank = bank
    let busy := s.blk.engPhase ≠ .idle ∧ ¬aborted
    ∃ b, Moves (.sample x) s b
        (if s.blk.outRun then [.out (waveRomWord s.cfg s.blk.activeWave.toNat s.blk.op)] else []) ∧
      (∀ j, (sbAt b j).toNat = if j = s.blk.wp then x.toNat % 2 ^ s.cfg.sampleBits else (sbAt s.blk j).toNat) ∧
      b.wp = (s.blk.wp + 1) % (2 * n) ∧
      b.bankOk.get bank = decide complete ∧ b.bankOk.get bank.other = s.blk.bankOk.get bank.other ∧
      b.engPhase = (if aborted then .idle else s.blk.engPhase) ∧
      b.cbank = (if complete then bank else s.blk.cbank) ∧ b.pending = (decide complete || s.blk.pending) ∧
      b.wincnt = s.blk.wincnt + (if complete then 1 else 0) ∧
      b.ovrCnt = s.blk.ovrCnt + (if complete ∧ busy then 1 else 0) ∧
      b.skipCnt = s.blk.skipCnt + (if aborted then 1 else 0) + (if complete ∧ s.blk.pending = true then 1 else 0) ∧
      b.irqStat = (s.blk.irqStat ||| (if complete then 0x001 else 0) ||| (if complete ∧ busy then 0x008 else 0) |||
        (if aborted ∨ (complete ∧ s.blk.pending = true) then 0x010 else 0)) ∧
      b.op = (if s.blk.outRun then (s.blk.op + 1) % n else s.blk.op) ∧
      b = { s.blk with
        sb := b.sb, wp := b.wp, bankOk := b.bankOk, engPhase := b.engPhase, cbank := b.cbank, pending := b.pending,
        wincnt := b.wincnt, ovrCnt := b.ovrCnt, skipCnt := b.skipCnt, irqStat := b.irqStat, op := b.op }

/-- spec/42_acquisition_output.md R147(a), (b): N acquiring ticks from the start of a bank store their samples there in
order, complete that bank with exactly one strobe, and move on to the other bank. A sample wider than P_B bits is cut to
them (notes/assumptions/9.md). -/
def Obligations.WindowOfTicksCompletesBank : Prop :=
  ∀ (xs : List Sample) (rest : List Action) (s : State), Inv s → s.blk.acqRun = true →
    s.blk.wp % winLen s.cfg = 0 → xs.length = winLen s.cfg → s.sched = xs.map .sample ++ rest →
    ∃ t, Sys2Proof.core.run (winLen s.cfg) s = .next t ∧ t.sched = rest ∧
      (∀ (i : Nat) (h : i < xs.length), (sbAt t.blk (s.blk.wp + i)).toNat = xs[i].toNat % 2 ^ s.cfg.sampleBits) ∧
      t.blk.wincnt = s.blk.wincnt + 1 ∧ t.blk.cbank = Bank.ofIndex (s.blk.wp / winLen s.cfg) ∧
      t.blk.bankOk.get t.blk.cbank = true ∧ t.blk.pending = true ∧ t.blk.acqRun = true ∧
      t.blk.wp = (s.blk.wp + winLen s.cfg) % (2 * winLen s.cfg)

/-! ### The ENGINE agent -/

/-- spec/43_transform.md R170: ENG_START takes the completed bank, or counts its window lost if the bank was written. -/
def Obligations.EngStartTakesOrSkips : Prop :=
  ∀ s : State, configValid s.cfg = true → s.blk.engPhase = .idle → s.blk.pending = true →
    Moves .engine s
      (if s.blk.bankOk.get s.blk.cbank then
        { s.blk with pending := false, ldBank := s.blk.cbank, engI := 0, engPhase := .load }
       else { s.blk with pending := false, skipCnt := s.blk.skipCnt + 1, irqStat := s.blk.irqStat ||| 0x010 }) []

/-- spec/43_transform.md R172, R173, spec/00_scope.md R8: a LOAD step copies sample i, shifted by P_G, to the element whose
index has bit p of i as its bit L-1-p, and to no other; the last one sets the FFT up. -/
def Obligations.EngLoadCopiesSample : Prop :=
  ∀ s : State, configValid s.cfg = true → s.blk.engPhase = .load →
    let i := s.blk.engI
    let last := i + 1 = 2 ^ s.cfg.lgN
    let reversed := fun k : Nat => k < 2 ^ s.cfg.lgN ∧ ∀ p, p < s.cfg.lgN → k.testBit (s.cfg.lgN - 1 - p) = i.testBit p
    ∃ b, Moves .engine s b [] ∧
      (∃ k, reversed k) ∧
      (∀ k, reversed k → xAt b k =
        { re := BitVec.ofNat 32 ((sbAt s.blk (s.blk.ldBank.toNat * 2 ^ s.cfg.lgN + i)).toNat * 2 ^ s.cfg.guardBits)
          im := 0 }) ∧
      (∀ k, ¬reversed k → xAt b k = xAt s.blk k) ∧
      b = { s.blk with
        x := b.x, engI := i + 1, engStage := if last then 1 else s.blk.engStage
        engQ := if last then 0 else s.blk.engQ, engPhase := if last then .fft else .load }

/-- spec/43_transform.md R166, R167, R174 to R177: an FFT step multiplies its bottom element by the twiddle, each component
the exact sum of products plus half a unit, floored at P_T fraction bits; it writes u + t on top and u - t below, and
advances; after the last butterfly of the last stage the back bank takes its new stamp and MAG begins; a component outside
SInt_32 is the fault ARITH_OVERFLOW instead. -/
def Obligations.EngFftRunsButterfly : Prop :=
  ∀ s : State, configValid s.cfg = true → s.blk.engPhase = .fft →
    let c := s.cfg
    let m := 2 ^ s.blk.engStage
    let h := m / 2
    let top := s.blk.engQ / h * m + s.blk.engQ % h
    let bot := top + h
    let w := twiddle c (s.blk.engQ % h * 2 ^ (c.lgN - s.blk.engStage))
    let ur := (xAt s.blk top).re.toInt
    let ui := (xAt s.blk top).im.toInt
    let xr := (xAt s.blk bot).re.toInt
    let xi := (xAt s.blk bot).im.toInt
    let tr := (w.re * xr - w.im * xi + 2 ^ (c.twBits - 1)) / 2 ^ c.twBits
    let ti := (w.re * xi + w.im * xr + 2 ^ (c.twBits - 1)) / 2 ^ c.twBits
    let inStage := s.blk.engQ < 2 ^ c.lgN / 2 - 1
    let inFft := s.blk.engStage < c.lgN
    if ∀ v ∈ [ur + tr, ui + ti, ur - tr, ui - ti], -2 ^ 31 ≤ v ∧ v < 2 ^ 31 then
      ∃ b, Moves .engine s b [] ∧
        (∀ k, xAt b k = if k = bot then { re := BitVec.ofInt 32 (ur - tr), im := BitVec.ofInt 32 (ui - ti) }
          else if k = top then { re := BitVec.ofInt 32 (ur + tr), im := BitVec.ofInt 32 (ui + ti) } else xAt s.blk k) ∧
        b = { s.blk with
          x := b.x
          engQ := if inStage then s.blk.engQ + 1 else if inFft then 0 else s.blk.engQ
          engStage := if inStage then s.blk.engStage else if inFft then s.blk.engStage + 1 else s.blk.engStage
          bankVer := if inStage ∨ inFft then s.blk.bankVer else s.blk.bankVer.set s.blk.front.other (s.blk.version + 1)
          engI := if inStage ∨ inFft then s.blk.engI else 0
          engPhase := if inStage ∨ inFft then .fft else .mag }
    else step (s.withNext .engine) = .fault .arithOverflow

/-- spec/43_transform.md R168, R169, R178, R179, R183: a MAG step writes to one bin of the back bank, and to no other word,
the magnitude isqrt(re·re + im·im) shifted left by P_RF + 1 and right by P_L + P_B + P_G; PUB flips the front bank, counts
the version and sets PUB, and writes no result word. `isqrt` is what Obligations.IsqrtIsFloorOfRoot says. -/
def Obligations.EngMagAndPub : Prop :=
  ∀ s : State, configValid s.cfg = true →
    let c := s.cfg
    let re := (xAt s.blk s.blk.engI).re.toInt
    let im := (xAt s.blk s.blk.engI).im.toInt
    (s.blk.engPhase = .mag → ∃ b, Moves .engine s b [] ∧
      (∀ bank k, rbAt b bank k = if bank = s.blk.front.other ∧ k = s.blk.engI then
          BitVec.ofNat 32
            (isqrt (re * re + im * im).toNat * 2 ^ (c.resBits + 1) / 2 ^ (c.lgN + c.sampleBits + c.guardBits))
        else rbAt s.blk bank k) ∧
      b = { s.blk with
        rb := b.rb, engI := s.blk.engI + 1
        engPhase := if s.blk.engI + 1 = 2 ^ s.cfg.lgN / 2 then .pub else .mag }) ∧
    (s.blk.engPhase = .pub → Moves .engine s
      { s.blk with front := s.blk.front.other, version := s.blk.version + 1, irqStat := s.blk.irqStat ||| 0x002
                   engPhase := .idle } [])

/-- spec/43_transform.md R160, R182 with R170 to R183: from a completed bank, in every valid configuration, exactly
`jobSteps` ENGINE steps with none of another agent between them run one job: it publishes, the front bank then holds the
transform of that window in every bin, and the result published before is still whole in the other bank. -/
def Obligations.JobPublishesTransform : Prop :=
  ∀ (rest : List Action) (s : State), Inv s → s.blk.engPhase = .idle → s.blk.pending = true →
    s.blk.bankOk.get s.blk.cbank = true → s.sched = List.replicate (jobSteps s.cfg) .engine ++ rest →
    ∃ t, Sys2Proof.core.run (jobSteps s.cfg) s = .next t ∧ t.sched = rest ∧ t.blk.engPhase = .idle ∧
      t.blk.pending = false ∧ t.blk.version = s.blk.version + 1 ∧ t.blk.front = s.blk.front.other ∧
      (∀ k, k < binCount s.cfg → rbAt t.blk t.blk.front k =
        transform s.cfg (fun i => sbAt s.blk (s.blk.cbank.toNat * winLen s.cfg + i)) k) ∧
      (∀ k, rbAt t.blk s.blk.front k = rbAt s.blk s.blk.front k)

/-! ### The report consumer and the report port -/

/-- spec/44_publication_report.md R198, R199: a wake latches the front bank in slot 0; a check takes the armed request and
clears it in one step, or returns to WAITING. -/
def Obligations.RcWakesAndChecks : Prop :=
  ∀ s : State, configValid s.cfg = true →
    (s.blk.rcState = .waiting → s.blk.version ≠ (slotAt s.blk 0).seenVer → ∃ b, Moves .rc s b [] ∧
      slotAt b 0 = { seenVer := s.blk.version, latBank := s.blk.front, latVer := s.blk.version } ∧
      (∀ n, n ≠ 0 → slotAt b n = slotAt s.blk n) ∧ b = { s.blk with slots := b.slots, rcState := .check }) ∧
    (s.blk.rcState = .check → Moves .rc s
      (if s.blk.armed then
        { s.blk with rcStart := s.blk.reqStart, rcCount := s.blk.reqCount, armed := false, rcIdx := 0, rcState := .emit }
       else { s.blk with rcState := .waiting }) [])

/-- spec/44_publication_report.md R200, spec/30_encoding.md R92: an emission step puts out one record: ABORT with the
request armed again unless a newer one is, if the latched bank was overwritten; else the next bin, bin 0 halved; else END.
On the port a record is the 64-bit word of R92: the tag, sixteen zero bits, the bin or the count, the value or the
version. -/
def Obligations.RcEmitsOneRecord : Prop :=
  (∀ (n : BinWord) (v : Word),
    (∀ r tag, (r, tag) ∈ [(Record.data n v, 0b00#2), (Record.fin n v, 0b01#2), (Record.abort n v, 0b10#2)] →
      (recordWord r).extractLsb' 62 2 = tag ∧ (recordWord r).extractLsb' 46 16 = 0 ∧
      (recordWord r).extractLsb' 32 14 = n ∧ (recordWord r).extractLsb' 0 32 = v)) ∧
  ∀ s : State, configValid s.cfg = true → s.blk.rcState = .emit → s.blk.rptOut = none →
    let l := slotAt s.blk 0
    let k := s.blk.rcStart.toNat + s.blk.rcIdx
    let v := rbAt s.blk l.latBank k
    Moves .rc s
      (if s.blk.bankVer.get l.latBank ≠ l.latVer then
        { s.blk with
          rptOut := some (.abort (BitVec.ofNat 14 s.blk.rcIdx) l.latVer)
          reqStart := if s.blk.armed then s.blk.reqStart else s.blk.rcStart
          reqCount := if s.blk.armed then s.blk.reqCount else s.blk.rcCount
          armed := true, irqStat := s.blk.irqStat ||| 0x080, rcState := .waiting }
       else if s.blk.rcIdx < s.blk.rcCount.toNat then
        { s.blk with
          rptOut := some (.data (BitVec.ofNat 14 k) (if k = 0 then BitVec.ofNat 32 (v.toNat / 2) else v))
          rcIdx := s.blk.rcIdx + 1 }
       else
        { s.blk with
          rptOut := some (.fin s.blk.rcCount l.latVer), irqStat := s.blk.irqStat ||| 0x040, rcState := .waiting }) []

/-- spec/44_publication_report.md R202: RPORT takes the record in the port, emits it and empties the port. -/
def Obligations.RportTakesRecord : Prop :=
  ∀ (r : Record) (s : State), configValid s.cfg = true → s.blk.rptOut = some r →
    Moves .rport s { s.blk with rptOut := none } [.rpt r]

/-- spec/43_transform.md R170, spec/44_publication_report.md R201 to R203: an agent with no enabled step leaves the machine
as it is when it is picked. That the pick is used up, and the run goes on, is the model's choice
(notes/assumptions/2.md). -/
def Obligations.StuckAgentsChangeNothing : Prop :=
  ∀ s : State, configValid s.cfg = true →
    (s.blk.engPhase = .idle → s.blk.pending = false → Moves .engine s s.blk []) ∧
    (s.blk.rcState = .waiting → s.blk.version = (slotAt s.blk 0).seenVer → Moves .rc s s.blk []) ∧
    (s.blk.rcState = .emit → s.blk.rptOut ≠ none → Moves .rc s s.blk []) ∧
    (s.blk.rptOut = none → Moves .rport s s.blk [])

/-! ### The DB agent -/

/-- spec/45_debounce_events.md R211 to R214: what one DB step does to each input: the synchronizer shifts, an assertion
edge starts or restarts the delay, a tick without one counts it down, and the last tick ends it. Inputs beyond P_NIN do
not change. -/
def Obligations.DbStepsEveryInput : Prop :=
  ∀ (pins : BitVec 16) (te : Bool) (s : State), configValid s.cfg = true → ∃ b, Moves (.db pins te) s b [] ∧
    (∀ i, s.cfg.nIn ≤ i → inputAt b i = inputAt s.blk i) ∧
    ∀ i, i < s.cfg.nIn →
      let d := inputAt s.blk i
      let edge := d.s1 = true ∧ d.s2 = false
      let ticks := d.st = .deb ∧ te = true
      inputAt b i =
        { s1 := pins.getLsbD i ^^ s.cfg.activeLow.getLsbD i, s2 := d.s1, s3 := d.s2
          st := if edge then .deb else if ticks ∧ d.cnt.toNat ≤ 1 then .idle else d.st
          cnt := if edge then BitVec.ofNat 16 s.cfg.dbDelay
            else if ticks ∧ 1 < d.cnt.toNat then d.cnt - 1 else d.cnt }

/-- spec/45_debounce_events.md R215, R216 with spec/60_exceptions.md R239: of the inputs whose delay expires asserted in
one DB step, the lowest is queued if the queue is empty, and every other is dropped and counted; nothing else of the block
but the inputs changes. -/
def Obligations.DbPushesLowestInput : Prop :=
  ∀ (pins : BitVec 16) (te : Bool) (s : State), configValid s.cfg = true →
    let expiring := (List.range s.cfg.nIn).filter (fun i => pushesEvent (inputAt s.blk i) te)
    let queued := !s.blk.evqValid && !expiring.isEmpty
    let dropped := if queued then expiring.length - 1 else expiring.length
    ∃ b, Moves (.db pins te) s b [] ∧
      b = { s.blk with
        inputs := b.inputs
        evqValid := s.blk.evqValid || queued
        evqEntry := if queued then { idx := BitVec.ofNat 8 (expiring.headD 0), cls := 0x01 } else s.blk.evqEntry
        dropCnt := s.blk.dropCnt + BitVec.ofNat 32 dropped
        irqStat := s.blk.irqStat ||| (if queued then 0x004 else 0) ||| (if 0 < dropped then 0x020 else 0) }

/-- spec/45_debounce_events.md R219: the debounce unit reads nothing of the rest of the block: two blocks with the same
debounce registers have the same after a DB step, whatever else differs. -/
def Obligations.DebounceIgnoresTheRest : Prop :=
  ∀ (c : Config) (pins : BitVec 16) (te : Bool) (b b' : Block), SameDebounce b b' →
    ∃ d d', agentMove c (.db pins te) b = .moved d [] ∧ agentMove c (.db pins te) b' = .moved d' [] ∧ SameDebounce d d'

/-- spec/45_debounce_events.md R214, R217(a): with one input held asserted and no further edge, a delay with m ticks left
runs for m - 1 ticks without an event and expires at the m-th, which pushes exactly one event. -/
def Obligations.DelayExpiresAtItsLastTick : Prop :=
  ∀ (pins : BitVec 16) (rest : List Action) (s : State), configValid s.cfg = true → s.cfg.nIn = 1 →
    pinAsserted s.cfg pins 0 = true → (inputAt s.blk 0).s1 = true → (inputAt s.blk 0).s2 = true →
    (inputAt s.blk 0).st = .deb → 1 ≤ (inputAt s.blk 0).cnt.toNat → s.blk.evqValid = false →
    s.sched = List.replicate (inputAt s.blk 0).cnt.toNat (.db pins true) ++ rest →
    (∀ k, k < (inputAt s.blk 0).cnt.toNat → ∃ t, Sys2Proof.core.run k s = .next t ∧ (inputAt t.blk 0).st = .deb ∧
      t.blk.evqValid = false ∧ t.blk.dropCnt = s.blk.dropCnt) ∧
    ∃ t, Sys2Proof.core.run (inputAt s.blk 0).cnt.toNat s = .next t ∧ t.sched = rest ∧ (inputAt t.blk 0).st = .idle ∧
      t.blk.evqValid = true ∧ t.blk.evqEntry = { idx := 0, cls := 0x01 } ∧ t.blk.dropCnt = s.blk.dropCnt ∧
      t.blk.irqStat = s.blk.irqStat ||| 0x004

/-- spec/45_debounce_events.md R214, R217(b): with one input released and its release synchronized before the delay of m
ticks expires, the delay ends with no event. -/
def Obligations.ReleaseBeforeExpiryIsRejected : Prop :=
  ∀ (pins : BitVec 16) (rest : List Action) (s : State), configValid s.cfg = true → s.cfg.nIn = 1 →
    pinAsserted s.cfg pins 0 = false → (inputAt s.blk 0).s1 = false → (inputAt s.blk 0).st = .deb →
    1 ≤ (inputAt s.blk 0).cnt.toNat →
    s.sched = List.replicate (inputAt s.blk 0).cnt.toNat (.db pins true) ++ rest →
    ∃ t, Sys2Proof.core.run (inputAt s.blk 0).cnt.toNat s = .next t ∧ t.sched = rest ∧ (inputAt t.blk 0).st = .idle ∧
      t.blk.evqValid = s.blk.evqValid ∧ t.blk.evqEntry = s.blk.evqEntry ∧ t.blk.dropCnt = s.blk.dropCnt ∧
      t.blk.irqStat = s.blk.irqStat

/-! ### Reset -/

/-- spec/70_reset_and_hazards.md R260, R262: the RESET step is always enabled and leaves every element of S at the value of
R260, whatever was in progress, with no record but IRQ(0) if the level was high; a machine that starts has the same block.
That S.SB and S.X read 0 after it is the model's choice, which the rule allows (notes/assumptions/4.md). -/
def Obligations.ResetStepResetsBlock : Prop :=
  ∀ s : State, configValid s.cfg = true →
    ∃ t, step (s.withNext .reset) = .next t ∧ t.cfg = s.cfg ∧ t.replies = s.replies ∧ t.sched = s.sched ∧
      t.trace = s.trace ++ (if irqLevel s.blk then [.irq false] else []) ∧ t.blk = (State.boot s.cfg).blk ∧
      t.blk = {
        acqRun := false, outRun := false, fatal := false, activeWave := 0, op := 0, rateDiv := 0
        sb := t.blk.sb, wp := 0, bankOk := { b0 := false, b1 := false }, cbank := .b0, pending := false
        wincnt := 0, ovrCnt := 0, skipCnt := 0, dropCnt := 0
        engPhase := .idle, ldBank := .b0, engI := 0, engStage := 1, engQ := 0, x := t.blk.x, rb := t.blk.rb
        front := .b0, version := 0, bankVer := { b0 := 0, b1 := 0 }, slots := t.blk.slots
        reqStart := 0, reqCount := 0, armed := false, rcState := .waiting, rcStart := 0, rcCount := 0, rcIdx := 0
        rptOut := none, inputs := t.blk.inputs, evqValid := false, evqEntry := { idx := 0, cls := 0 }
        irqStat := 0, irqEn := 0, respCode := 0, respOp := 0 } ∧
      (∀ j, sbAt t.blk j = 0) ∧ (∀ k, xAt t.blk k = { re := 0, im := 0 }) ∧ (∀ bank k, rbAt t.blk bank k = 0) ∧
      (∀ n, slotAt t.blk n = { seenVer := 0, latBank := .b0, latVer := 0 }) ∧
      ∀ i, inputAt t.blk i = { s1 := false, s2 := false, s3 := false, st := .idle, cnt := 0 }

/-- spec/70_reset_and_hazards.md R261: right after reset every register but ID and SUB_STAT reads 0, and SUB_STAT(s) reads
VALID alone. -/
def Obligations.RegistersReadZeroAfterReset : Prop :=
  ∀ (c : Config) (n : BitVec 4) (k : BinWord), configValid c = true →
    let s := State.boot c
    (∀ i, i = .rdCmd ∨ i = .rdResp ∨ i = .rdStatus ∨ i = .rdIrqStat ∨ i = .rdIrqEn ∨ i = .rdVersion ∨ i = .rdWincnt ∨
        i = .rdOvrCnt ∨ i = .rdSkipCnt ∨ i = .rdDropCnt ∨ i = .rdEvqPop ∨ i = .rdReportReq ∨ i = .rdRateDiv ∨
        i = .rdDbState → Completes i s s.blk (.read 0 .okay)) ∧
    (n.toNat < c.nSub → Completes (.rdSubStat n) s s.blk (.read 0x00000002 .okay) ∧
      Completes (.rdSubLatver n) s s.blk (.read 0 .okay)) ∧
    (1 ≤ n.toNat → n.toNat < c.nSub → k.toNat < binCount c →
      Completes (decodeResult n.toNat k.toNat) s s.blk (.read 0 .okay))

/-! ### Invariants and whole-machine rules -/

/-- The invariant and the bound on the engine's words hold right after reset, of this hardware and of every valid
configuration (spec/70_reset_and_hazards.md R261). -/
def Obligations.ResetStateIsInvariant : Prop :=
  Inv State.reset ∧ TransformBounded State.reset ∧
    ∀ c : Config, configValid c = true → Inv (State.boot c) ∧ TransformBounded (State.boot c)

/-- spec/10_state.md R24, R25, R28, R34, R39, R41, R52, R59, spec/60_exceptions.md R237, spec/70_reset_and_hazards.md R264:
every step of every agent keeps the invariant. -/
def Obligations.StepKeepsInvariant : Prop := ∀ s t : State, Inv s → step s = .next t → Inv t

/-- In every valid configuration (`Inv` holds of no other) every step keeps the bound on the words the engine works on
(spec/43_transform.md R177; the constant 1 for the two roundings, where the rule has √2/2, is the model's,
notes/assumptions/14.md). -/
def Obligations.StepKeepsTransformBounded : Prop :=
  ∀ s t : State, Inv s → TransformBounded s → step s = .next t → TransformBounded t

/-- spec/43_transform.md R177, spec/00_scope.md R11: in no valid configuration (`Inv` holds of no other) is a step the fault
ARITH_OVERFLOW, and every scaled word that MAG comes to is below 2^31, so that it fits its 32 bits
(notes/assumptions/14.md). -/
def Obligations.ValidConfigurationNeverOverflows : Prop :=
  ∀ s : State, Inv s → TransformBounded s →
    (∀ f, step s ≠ .fault f) ∧
    (s.blk.engPhase = .mag → ∀ k, k < binCount s.cfg → scale s.cfg (mag (xAt s.blk k).toInts) < 2 ^ 31)

/-- spec/00_scope.md R6, R11: a step is refused exactly in an invalid configuration, and it faults only in an ENGINE step
of phase FFT. -/
def Obligations.StepStopsOnlyAsSpecified : Prop :=
  ∀ s : State,
    (∀ r, step s = .refused r → r = .invalidConfig ∧ configValid s.cfg = false) ∧
    (configValid s.cfg = false → step s = .refused .invalidConfig) ∧
    (∀ f, step s = .fault f → f = .arithOverflow ∧ s.nextAction = .engine ∧ s.blk.engPhase = .fft)

/-- spec/44_publication_report.md R192: the version changes only by a publish, which counts it up by one, and by RESET. -/
def Obligations.VersionChangesOnlyAtPublish : Prop :=
  ∀ s t : State, step s = .next t → t.blk.version ≠ s.blk.version →
    s.nextAction = .reset ∨
    (s.nextAction = .engine ∧ s.blk.engPhase = .pub ∧ t.blk.version = s.blk.version + 1 ∧
      t.blk.front = s.blk.front.other)

/-- spec/10_state.md R23, spec/70_reset_and_hazards.md R264: only RESET clears the fatal bit, and while it is set no path
starts; no step changes the configuration (spec/00_scope.md R5). -/
def Obligations.FatalEndsOnlyAtReset : Prop :=
  ∀ s t : State, step s = .next t → t.cfg = s.cfg ∧
    (s.blk.fatal = true → s.nextAction ≠ .reset → t.blk.fatal = true ∧
      (t.blk.acqRun = true → s.blk.acqRun = true) ∧ (t.blk.outRun = true → s.blk.outRun = true))

/-- spec/60_exceptions.md R238: a bit of IRQ_STAT is cleared only by a write of 1 to it or by RESET, and only a write to
IRQ_EN or RESET changes IRQ_EN. -/
def Obligations.IrqBitsClearedOnlyByAck : Prop :=
  ∀ (s t : State) (k : Nat), step s = .next t →
    (s.blk.irqStat.getLsbD k = true → t.blk.irqStat.getLsbD k = false →
      s.nextAction = .reset ∨
      ∃ r data, s.nextAction = .host r ∧ decode r = .wrIrqStat data ∧ data.getLsbD k = true) ∧
    (t.blk.irqEn ≠ s.blk.irqEn →
      s.nextAction = .reset ∨ ∃ r data, s.nextAction = .host r ∧ decode r = .wrIrqEn data)

/-- spec/44_publication_report.md R193, R195: a slot's registers change only when that slot consumes (SUB_ACK for a host
slot, a wake of RC for slot 0), and by RESET. -/
def Obligations.SlotsChangeOnlyWhenTheyConsume : Prop :=
  ∀ (s t : State) (n : Nat), step s = .next t → slotAt t.blk n ≠ slotAt s.blk n →
    s.nextAction = .reset ∨ (n = 0 ∧ s.nextAction = .rc ∧ s.blk.rcState = .waiting) ∨
    (n ≠ 0 ∧ ∃ r sub, s.nextAction = .host r ∧ asCommand (decode r) = some (.subAck sub) ∧ sub.toNat = n)

/-- spec/43_transform.md R165, R179: a result word changes only in a MAG step, which writes the back bank, and by RESET; so
the front bank stays whole until the next publish. -/
def Obligations.ResultWordsChangeOnlyInMag : Prop :=
  ∀ (s t : State) (bank : Bank) (k : Nat), step s = .next t → rbAt t.blk bank k ≠ rbAt s.blk bank k →
    s.nextAction = .reset ∨
    (s.nextAction = .engine ∧ s.blk.engPhase = .mag ∧ bank = s.blk.front.other ∧ k = s.blk.engI ∧
      t.blk.front = s.blk.front)

/-- spec/44_publication_report.md R194: over a step in which slot n does not consume, if VALID(n) reads 1 after it then
every word of the bank the slot latched is what it was before it. The premise on the latched version excludes the wrap of
2^32 publishes (spec/70_reset_and_hazards.md R267). -/
def Obligations.ValidLatchKeepsWords : Prop :=
  ∀ (s t : State) (n : Nat), Inv s → step s = .next t → s.nextAction ≠ .reset → slotAt t.blk n = slotAt s.blk n →
    (slotAt s.blk n).latVer ≠ s.blk.version + 1 → validFlag t.blk n = true →
    validFlag s.blk n = true ∧ ∀ k, rbAt t.blk (slotAt s.blk n).latBank k = rbAt s.blk (slotAt s.blk n).latBank k

/-! ### The datapath -/

/-- spec/00_scope.md R8, spec/43_transform.md R168: `isqrt v` is the largest r with r·r ≤ v. -/
def Obligations.IsqrtIsFloorOfRoot : Prop := ∀ v : Nat, isqrt v * isqrt v ≤ v ∧ v < (isqrt v + 1) * (isqrt v + 1)

/-- spec/43_transform.md R171: at this hardware's N = 256 and P_T = 15 the twiddle ROM, which the model computes in fixed
point (notes/assumptions/5.md), holds the rounded cosines and negated sines of the rule. -/
def Obligations.TwiddlesAreRoundedCosines : Prop :=
  ∀ (c : Config) (j : Nat), c.lgN = 8 → c.twBits = 15 → j < 128 →
    (twiddle c j).re = ⌊Real.cos (2 * Real.pi * j / 256) * 2 ^ 15 + 1 / 2⌋ ∧
    (twiddle c j).im = ⌊-Real.sin (2 * Real.pi * j / 256) * 2 ^ 15 + 1 / 2⌋

/-- spec/43_transform.md R184(b): the transform of an all-zero window is all-zero, in every valid configuration. -/
def Obligations.ZeroWindowGivesZeroResult : Prop :=
  ∀ (c : Config) (k : Nat), configValid c = true → transform c (fun _ => 0) k = 0

/-! ### Pseudo-instructions -/

/-- spec/30_encoding.md R94: the accesses a host makes for each pseudo-instruction, as a function of the replies to those
it has made, and what it takes from them; and EVQ_DRAIN, performed with nothing between its accesses, reads until the
entry's bit 31 is 0 and leaves the queue empty. That the entry's bits stay after the pop is the model's reading
(notes/assumptions/12.md), as is which access a SUB_READ makes of slot 0 or of a bin of 2^14 or more (notes/assumptions/20.md). -/
def Obligations.PseudoInstructionsExpand : Prop :=
  (∀ seen, nextAccess .startAll seen =
    if seen.length = 0 then some (.command 0x10000000) else if seen.length = 1 then some (.command 0x20000000) else none) ∧
  (∀ s k n seen, nextAccess (.subRead s k n) seen =
    if seen.length = 0 then some (.command (0x6000000#28 ++ s))
    else if seen.length ≤ n then some (readAt (0x10000 * s.toNat + 4 * (k + (seen.length - 1))))
    else if seen.length = n + 1 then some (readAt (0x00080 + 8 * s.toNat)) else none) ∧
  (∀ (n : Nat) (ack t : Reply) (rs : List Reply), rs.length = n →
    subReadValues n (ack :: rs ++ [t]) = rs.map replyData ∧
    subReadOk n (ack :: rs ++ [t]) = (replyData t).getLsbD 1) ∧
  (∀ s seen, nextAccess (.subPoll s) seen = if seen.length = 0 then some (readAt (0x00080 + 8 * s.toNat)) else none) ∧
  (∀ t, subPollNew [t] = (replyData t).getLsbD 0) ∧
  nextAccess .evqDrain [] = some (readAt 0x00028) ∧
  (∀ seen e, nextAccess .evqDrain (seen ++ [e]) =
    if (replyData e).getLsbD 31 then some (readAt 0x00028) else none) ∧
  (∀ m seen, nextAccess (.irqAck m) seen = if seen.length = 0 then some (writeAt 0x0000C m) else none) ∧
  (∀ d seen, nextAccess (.setRate d) seen = if seen.length = 0 then some (writeAt 0x00030 d) else none) ∧
  ∀ s : State, configValid s.cfg = true → ∃ u, perform .evqDrain [[], []] [] s = .next u ∧ u.done = true ∧
    u.machine.blk = { s.blk with evqValid := false } ∧
    u.seen = (if s.blk.evqValid then [.read (1#1 ++ 0#15 ++ s.blk.evqEntry.idx ++ s.blk.evqEntry.cls) .okay] else []) ++
      [.read 0 .okay]

/-- spec/30_encoding.md R94, spec/44_publication_report.md R194: whatever other agents do between the accesses of a
SUB_READ of a host slot, if it ends with ok = 1 then the values it read are, word for word, the result that was in the front
bank when it began. The premises exclude what the rules exclude: a RESET, another consumption by the same slot, and the wrap
of 2^32 publishes (spec/70_reset_and_hazards.md R267). -/
def Obligations.SubReadIsSnapshot : Prop :=
  ∀ (sub : BitVec 4) (k n : Nat) (gaps : List (List Action)) (s : State) (u : HostRun), Inv s → 1 ≤ sub.toNat →
    sub.toNat < s.cfg.nSub → k + n ≤ binCount s.cfg → gaps.flatten.length < 2 ^ 32 - 1 →
    (∀ a ∈ gaps.flatten, a ≠ .reset ∧ ∀ r, a = .host r → asCommand (decode r) ≠ some (.subAck sub)) →
    perform (.subRead sub k n) gaps [] s = .next u → u.done = true → subReadOk n u.seen = true →
    subReadValues n u.seen = (List.range n).map (fun j => rbAt s.blk s.blk.front (k + j))
end

