-- ==== Sys2Proof/Laws/Memory.lean ====
section
/-! SUPPORT. What reading and writing a word of an internal memory, or a per-bank pair, does; every write keeps the
canonical form. -/

namespace Sys2Proof

@[simp] theorem PerBank.get_set_same {α : Type} (p : PerBank α) (b : Bank) (v : α) : (p.set b v).get b = v := by
  cases b <;> rfl

@[simp] theorem PerBank.get_set_other {α : Type} (p : PerBank α) (b : Bank) (v : α) :
    (p.set b v).get b.other = p.get b.other := by
  cases b <;> rfl

/-- Reading a bank of a pair with one bank replaced. -/
theorem PerBank.get_set {α : Type} (p : PerBank α) (b c : Bank) (v : α) :
    (p.set b v).get c = if c = b then v else p.get c := by
  cases b <;> cases c <;> rfl

@[simp] theorem Bank.other_other (b : Bank) : b.other.other = b := by cases b <;> rfl

@[simp] theorem Bank.other_ne (b : Bank) : b.other ≠ b := by cases b <;> simp [Bank.other]

@[simp] theorem Bank.ne_other (b : Bank) : b ≠ b.other := by cases b <;> simp [Bank.other]

theorem Bank.eq_other_of_ne {b c : Bank} (h : c ≠ b) : c = b.other := by
  cases b <;> cases c <;> simp_all [Bank.other]

end Sys2Proof

namespace Sys2Proof.Machine

open Sys2Proof

theorem cellsGet_erase {α : Type} (d : α) (k j : Nat) (cells : List (Nat × α)) :
    cellsGet d (cellsErase k cells) j = if j = k then d else cellsGet d cells j := by
  induction cells with
  | nil => simp [cellsErase, cellsGet]
  | cons c rest ih =>
    obtain ⟨a, w⟩ := c
    by_cases ha : a = k
    · simp only [cellsErase, if_pos ha, ih, cellsGet]
      by_cases hj : j = k
      · simp [hj]
      · have : a ≠ j := fun h => hj (by omega)
        simp [hj, this]
    · simp only [cellsErase, if_neg ha, cellsGet, ih]
      by_cases hj : a = j
      · have : j ≠ k := fun h => ha (by omega)
        simp [hj, this]
      · simp [hj]

theorem cellsGet_insert {α : Type} (d : α) (k j : Nat) (v : α) (cells : List (Nat × α)) :
    (∀ c ∈ cells, c.1 ≠ k) →
    cellsGet d (cellsInsert k v cells) j = if j = k then v else cellsGet d cells j := by
  induction cells with
  | nil =>
    intro _
    rcases eq_or_ne j k with rfl | h
    · simp [cellsInsert, cellsGet]
    · simp [cellsInsert, cellsGet, h, h.symm]
  | cons c rest ih =>
    obtain ⟨a, w⟩ := c
    intro h
    have ha : a ≠ k := h (a, w) (by simp)
    have ih := ih fun c hc => h c (by simp [hc])
    by_cases hlt : a < k
    · simp only [cellsInsert, if_pos hlt, cellsGet, ih]
      by_cases hj : a = j
      · have : j ≠ k := fun h => ha (by omega)
        simp [hj, this]
      · simp [hj]
    · by_cases hj : j = k
      · simp [cellsInsert, hlt, cellsGet, hj]
      · have : k ≠ j := fun h => hj h.symm
        simp [cellsInsert, hlt, cellsGet, hj, this]

theorem mem_cellsErase {α : Type} (k : Nat) (cells : List (Nat × α)) (c : Nat × α) :
    c ∈ cellsErase k cells ↔ c ∈ cells ∧ c.1 ≠ k := by
  induction cells with
  | nil => simp [cellsErase]
  | cons e rest ih =>
    obtain ⟨a, w⟩ := e
    by_cases ha : a = k
    · rw [cellsErase, if_pos ha, ih, List.mem_cons]
      constructor
      · rintro ⟨h, hk⟩; exact ⟨.inr h, hk⟩
      · rintro ⟨rfl | h, hk⟩
        · exact absurd ha hk
        · exact ⟨h, hk⟩
    · rw [cellsErase, if_neg ha, List.mem_cons, ih, List.mem_cons]
      constructor
      · rintro (rfl | ⟨h, hk⟩)
        · exact ⟨.inl rfl, ha⟩
        · exact ⟨.inr h, hk⟩
      · rintro ⟨rfl | h, hk⟩
        · exact .inl rfl
        · exact .inr ⟨h, hk⟩

theorem mem_cellsInsert {α : Type} (k : Nat) (v : α) (cells : List (Nat × α)) (c : Nat × α) :
    c ∈ cellsInsert k v cells ↔ c = (k, v) ∨ c ∈ cells := by
  induction cells with
  | nil => simp [cellsInsert]
  | cons e rest ih =>
    obtain ⟨a, w⟩ := e
    by_cases ha : a < k
    · simp only [cellsInsert, if_pos ha, List.mem_cons, ih]; tauto
    · simp [cellsInsert, ha]

/-- What a write does: the word written is read back, and every other word reads as before. -/
theorem Memory.get_set {α : Type} [DecidableEq α] (d : α) (m : Memory α) (k j : Nat) (v : α) :
    (m.set d k v).get d j = if j = k then v else m.get d j := by
  unfold Memory.set Memory.get
  by_cases hv : v = d
  · simp only [if_pos hv, cellsGet_erase]; by_cases hj : j = k <;> simp [hj, hv]
  · simp only [if_neg hv]
    rw [cellsGet_insert, cellsGet_erase]
    · by_cases hj : j = k <;> simp [hj]
    · intro c hc; exact ((mem_cellsErase k m.cells c).1 hc).2

@[simp] theorem Memory.get_set_same {α : Type} [DecidableEq α] (d : α) (m : Memory α) (k : Nat) (v : α) :
    (m.set d k v).get d k = v := by simp [Memory.get_set]

theorem Memory.get_set_other {α : Type} [DecidableEq α] (d : α) (m : Memory α) {k j : Nat} (v : α) (h : j ≠ k) :
    (m.set d k v).get d j = m.get d j := by simp [Memory.get_set, h]

theorem cellsErase_sorted {α : Type} (k : Nat) (cells : List (Nat × α))
    (h : (cells.map Prod.fst).Pairwise (· < ·)) : ((cellsErase k cells).map Prod.fst).Pairwise (· < ·) := by
  induction cells with
  | nil => simp [cellsErase]
  | cons e rest ih =>
    obtain ⟨a, w⟩ := e
    simp only [List.map_cons, List.pairwise_cons] at h
    by_cases ha : a = k
    · simpa only [cellsErase, if_pos ha] using ih h.2
    · simp only [cellsErase, if_neg ha, List.map_cons, List.pairwise_cons]
      refine ⟨fun b hb => ?_, ih h.2⟩
      obtain ⟨c, hc, rfl⟩ := List.mem_map.1 hb
      exact h.1 _ (List.mem_map.2 ⟨c, ((mem_cellsErase k rest c).1 hc).1, rfl⟩)

theorem cellsInsert_sorted {α : Type} (k : Nat) (v : α) (cells : List (Nat × α)) (hk : ∀ c ∈ cells, c.1 ≠ k)
    (h : (cells.map Prod.fst).Pairwise (· < ·)) : ((cellsInsert k v cells).map Prod.fst).Pairwise (· < ·) := by
  induction cells with
  | nil => simp [cellsInsert]
  | cons e rest ih =>
    obtain ⟨a, w⟩ := e
    have hak : a ≠ k := hk (a, w) (by simp)
    have hs := h
    simp only [List.map_cons, List.pairwise_cons] at h
    by_cases ha : a < k
    · simp only [cellsInsert, if_pos ha, List.map_cons, List.pairwise_cons]
      refine ⟨fun b hb => ?_, ih (fun c hc => hk c (by simp [hc])) h.2⟩
      obtain ⟨c, hc, rfl⟩ := List.mem_map.1 hb
      rcases (mem_cellsInsert k v rest c).1 hc with rfl | hc
      · exact ha
      · exact h.1 _ (List.mem_map.2 ⟨c, hc, rfl⟩)
    · rw [cellsInsert, if_neg ha, List.map_cons, List.pairwise_cons]
      refine ⟨fun b hb => ?_, hs⟩
      have hka : k < a := by omega
      simp only [List.map_cons, List.mem_cons] at hb
      rcases hb with rfl | hb
      · exact hka
      · exact hka.trans (h.1 _ hb)

/-- A write keeps the canonical form. -/
theorem Memory.wf_set {α : Type} [DecidableEq α] (d : α) (m : Memory α) (k : Nat) (v : α) (h : m.wf d = true) :
    (m.set d k v).wf d = true := by
  simp only [Memory.wf, Bool.and_eq_true, decide_eq_true_eq, List.all_eq_true] at h ⊢
  obtain ⟨hs, hd⟩ := h
  by_cases hv : v = d
  · simp only [Memory.set, if_pos hv]
    exact ⟨cellsErase_sorted k _ hs, fun c hc => hd c ((mem_cellsErase k _ c).1 hc).1⟩
  · simp only [Memory.set, if_neg hv]
    refine ⟨cellsInsert_sorted k v _ (fun c hc => ((mem_cellsErase k _ c).1 hc).2) (cellsErase_sorted k _ hs), ?_⟩
    intro c hc
    rcases (mem_cellsInsert k v _ c).1 hc with rfl | hc
    · exact hv
    · exact hd c ((mem_cellsErase k _ c).1 hc).1

/-- The empty memory is canonical and reads as its reset word everywhere. -/
@[simp] theorem Memory.wf_empty {α : Type} [DecidableEq α] (d : α) : Memory.wf d ({ cells := [] } : Memory α) = true := rfl

@[simp] theorem Memory.get_empty {α : Type} (d : α) (k : Nat) : Memory.get d ({ cells := [] } : Memory α) k = d := rfl

/-! ### The block's memories -/

theorem sbAt_setSb (b : Block) (j k : Nat) (v : Sample) : sbAt (setSb b j v) k = if k = j then v else sbAt b k :=
  Memory.get_set 0 b.sb j k v

theorem xAt_setX (b : Block) (j k : Nat) (v : Cplx) : xAt (setX b j v) k = if k = j then v else xAt b k :=
  Memory.get_set Cplx.zero b.x j k v

theorem slotAt_setSlot (b : Block) (j k : Nat) (v : Latch) :
    slotAt (setSlot b j v) k = if k = j then v else slotAt b k :=
  Memory.get_set Latch.atReset b.slots j k v

theorem inputAt_setInput (b : Block) (j k : Nat) (v : DbInput) :
    inputAt (setInput b j v) k = if k = j then v else inputAt b k :=
  Memory.get_set DbInput.atReset b.inputs j k v

/-- Writing a result word changes that word of that bank alone. -/
theorem rbAt_setRb (b : Block) (p q : Bank) (j k : Nat) (v : Word) :
    rbAt (setRb b p j v) q k = if q = p ∧ k = j then v else rbAt b q k := by
  unfold rbAt setRb
  by_cases hq : q = p
  · subst hq; simp [Memory.get_set]
  · simp [PerBank.get_set, hq]

end Sys2Proof.Machine
end

