-- ==== Sys2Proof/Laws/State.lean ====
section
/-! SUPPORT. One lemma for each field of each shared update of the state, so that no proof unfolds an update. -/

namespace Sys2Proof.Machine

open Sys2Proof

/-! ### Updates of the block -/

@[simp] theorem irqSet_acqRun (b : Block) (m : BitVec 9) : (irqSet b m).acqRun = b.acqRun := rfl
@[simp] theorem irqSet_outRun (b : Block) (m : BitVec 9) : (irqSet b m).outRun = b.outRun := rfl
@[simp] theorem irqSet_fatal (b : Block) (m : BitVec 9) : (irqSet b m).fatal = b.fatal := rfl
@[simp] theorem irqSet_activeWave (b : Block) (m : BitVec 9) : (irqSet b m).activeWave = b.activeWave := rfl
@[simp] theorem irqSet_op (b : Block) (m : BitVec 9) : (irqSet b m).op = b.op := rfl
@[simp] theorem irqSet_rateDiv (b : Block) (m : BitVec 9) : (irqSet b m).rateDiv = b.rateDiv := rfl
@[simp] theorem irqSet_sb (b : Block) (m : BitVec 9) : (irqSet b m).sb = b.sb := rfl
@[simp] theorem irqSet_wp (b : Block) (m : BitVec 9) : (irqSet b m).wp = b.wp := rfl
@[simp] theorem irqSet_bankOk (b : Block) (m : BitVec 9) : (irqSet b m).bankOk = b.bankOk := rfl
@[simp] theorem irqSet_cbank (b : Block) (m : BitVec 9) : (irqSet b m).cbank = b.cbank := rfl
@[simp] theorem irqSet_pending (b : Block) (m : BitVec 9) : (irqSet b m).pending = b.pending := rfl
@[simp] theorem irqSet_wincnt (b : Block) (m : BitVec 9) : (irqSet b m).wincnt = b.wincnt := rfl
@[simp] theorem irqSet_ovrCnt (b : Block) (m : BitVec 9) : (irqSet b m).ovrCnt = b.ovrCnt := rfl
@[simp] theorem irqSet_skipCnt (b : Block) (m : BitVec 9) : (irqSet b m).skipCnt = b.skipCnt := rfl
@[simp] theorem irqSet_dropCnt (b : Block) (m : BitVec 9) : (irqSet b m).dropCnt = b.dropCnt := rfl
@[simp] theorem irqSet_engPhase (b : Block) (m : BitVec 9) : (irqSet b m).engPhase = b.engPhase := rfl
@[simp] theorem irqSet_ldBank (b : Block) (m : BitVec 9) : (irqSet b m).ldBank = b.ldBank := rfl
@[simp] theorem irqSet_engI (b : Block) (m : BitVec 9) : (irqSet b m).engI = b.engI := rfl
@[simp] theorem irqSet_engStage (b : Block) (m : BitVec 9) : (irqSet b m).engStage = b.engStage := rfl
@[simp] theorem irqSet_engQ (b : Block) (m : BitVec 9) : (irqSet b m).engQ = b.engQ := rfl
@[simp] theorem irqSet_x (b : Block) (m : BitVec 9) : (irqSet b m).x = b.x := rfl
@[simp] theorem irqSet_rb (b : Block) (m : BitVec 9) : (irqSet b m).rb = b.rb := rfl
@[simp] theorem irqSet_front (b : Block) (m : BitVec 9) : (irqSet b m).front = b.front := rfl
@[simp] theorem irqSet_version (b : Block) (m : BitVec 9) : (irqSet b m).version = b.version := rfl
@[simp] theorem irqSet_bankVer (b : Block) (m : BitVec 9) : (irqSet b m).bankVer = b.bankVer := rfl
@[simp] theorem irqSet_slots (b : Block) (m : BitVec 9) : (irqSet b m).slots = b.slots := rfl
@[simp] theorem irqSet_reqStart (b : Block) (m : BitVec 9) : (irqSet b m).reqStart = b.reqStart := rfl
@[simp] theorem irqSet_reqCount (b : Block) (m : BitVec 9) : (irqSet b m).reqCount = b.reqCount := rfl
@[simp] theorem irqSet_armed (b : Block) (m : BitVec 9) : (irqSet b m).armed = b.armed := rfl
@[simp] theorem irqSet_rcState (b : Block) (m : BitVec 9) : (irqSet b m).rcState = b.rcState := rfl
@[simp] theorem irqSet_rcStart (b : Block) (m : BitVec 9) : (irqSet b m).rcStart = b.rcStart := rfl
@[simp] theorem irqSet_rcCount (b : Block) (m : BitVec 9) : (irqSet b m).rcCount = b.rcCount := rfl
@[simp] theorem irqSet_rcIdx (b : Block) (m : BitVec 9) : (irqSet b m).rcIdx = b.rcIdx := rfl
@[simp] theorem irqSet_rptOut (b : Block) (m : BitVec 9) : (irqSet b m).rptOut = b.rptOut := rfl
@[simp] theorem irqSet_inputs (b : Block) (m : BitVec 9) : (irqSet b m).inputs = b.inputs := rfl
@[simp] theorem irqSet_evqValid (b : Block) (m : BitVec 9) : (irqSet b m).evqValid = b.evqValid := rfl
@[simp] theorem irqSet_evqEntry (b : Block) (m : BitVec 9) : (irqSet b m).evqEntry = b.evqEntry := rfl
@[simp] theorem irqSet_irqStat (b : Block) (m : BitVec 9) : (irqSet b m).irqStat = b.irqStat ||| m := rfl
@[simp] theorem irqSet_irqEn (b : Block) (m : BitVec 9) : (irqSet b m).irqEn = b.irqEn := rfl
@[simp] theorem irqSet_respCode (b : Block) (m : BitVec 9) : (irqSet b m).respCode = b.respCode := rfl
@[simp] theorem irqSet_respOp (b : Block) (m : BitVec 9) : (irqSet b m).respOp = b.respOp := rfl

@[simp] theorem irqAck_acqRun (b : Block) (m : BitVec 9) : (irqAck b m).acqRun = b.acqRun := rfl
@[simp] theorem irqAck_outRun (b : Block) (m : BitVec 9) : (irqAck b m).outRun = b.outRun := rfl
@[simp] theorem irqAck_fatal (b : Block) (m : BitVec 9) : (irqAck b m).fatal = b.fatal := rfl
@[simp] theorem irqAck_activeWave (b : Block) (m : BitVec 9) : (irqAck b m).activeWave = b.activeWave := rfl
@[simp] theorem irqAck_op (b : Block) (m : BitVec 9) : (irqAck b m).op = b.op := rfl
@[simp] theorem irqAck_rateDiv (b : Block) (m : BitVec 9) : (irqAck b m).rateDiv = b.rateDiv := rfl
@[simp] theorem irqAck_sb (b : Block) (m : BitVec 9) : (irqAck b m).sb = b.sb := rfl
@[simp] theorem irqAck_wp (b : Block) (m : BitVec 9) : (irqAck b m).wp = b.wp := rfl
@[simp] theorem irqAck_bankOk (b : Block) (m : BitVec 9) : (irqAck b m).bankOk = b.bankOk := rfl
@[simp] theorem irqAck_cbank (b : Block) (m : BitVec 9) : (irqAck b m).cbank = b.cbank := rfl
@[simp] theorem irqAck_pending (b : Block) (m : BitVec 9) : (irqAck b m).pending = b.pending := rfl
@[simp] theorem irqAck_wincnt (b : Block) (m : BitVec 9) : (irqAck b m).wincnt = b.wincnt := rfl
@[simp] theorem irqAck_ovrCnt (b : Block) (m : BitVec 9) : (irqAck b m).ovrCnt = b.ovrCnt := rfl
@[simp] theorem irqAck_skipCnt (b : Block) (m : BitVec 9) : (irqAck b m).skipCnt = b.skipCnt := rfl
@[simp] theorem irqAck_dropCnt (b : Block) (m : BitVec 9) : (irqAck b m).dropCnt = b.dropCnt := rfl
@[simp] theorem irqAck_engPhase (b : Block) (m : BitVec 9) : (irqAck b m).engPhase = b.engPhase := rfl
@[simp] theorem irqAck_ldBank (b : Block) (m : BitVec 9) : (irqAck b m).ldBank = b.ldBank := rfl
@[simp] theorem irqAck_engI (b : Block) (m : BitVec 9) : (irqAck b m).engI = b.engI := rfl
@[simp] theorem irqAck_engStage (b : Block) (m : BitVec 9) : (irqAck b m).engStage = b.engStage := rfl
@[simp] theorem irqAck_engQ (b : Block) (m : BitVec 9) : (irqAck b m).engQ = b.engQ := rfl
@[simp] theorem irqAck_x (b : Block) (m : BitVec 9) : (irqAck b m).x = b.x := rfl
@[simp] theorem irqAck_rb (b : Block) (m : BitVec 9) : (irqAck b m).rb = b.rb := rfl
@[simp] theorem irqAck_front (b : Block) (m : BitVec 9) : (irqAck b m).front = b.front := rfl
@[simp] theorem irqAck_version (b : Block) (m : BitVec 9) : (irqAck b m).version = b.version := rfl
@[simp] theorem irqAck_bankVer (b : Block) (m : BitVec 9) : (irqAck b m).bankVer = b.bankVer := rfl
@[simp] theorem irqAck_slots (b : Block) (m : BitVec 9) : (irqAck b m).slots = b.slots := rfl
@[simp] theorem irqAck_reqStart (b : Block) (m : BitVec 9) : (irqAck b m).reqStart = b.reqStart := rfl
@[simp] theorem irqAck_reqCount (b : Block) (m : BitVec 9) : (irqAck b m).reqCount = b.reqCount := rfl
@[simp] theorem irqAck_armed (b : Block) (m : BitVec 9) : (irqAck b m).armed = b.armed := rfl
@[simp] theorem irqAck_rcState (b : Block) (m : BitVec 9) : (irqAck b m).rcState = b.rcState := rfl
@[simp] theorem irqAck_rcStart (b : Block) (m : BitVec 9) : (irqAck b m).rcStart = b.rcStart := rfl
@[simp] theorem irqAck_rcCount (b : Block) (m : BitVec 9) : (irqAck b m).rcCount = b.rcCount := rfl
@[simp] theorem irqAck_rcIdx (b : Block) (m : BitVec 9) : (irqAck b m).rcIdx = b.rcIdx := rfl
@[simp] theorem irqAck_rptOut (b : Block) (m : BitVec 9) : (irqAck b m).rptOut = b.rptOut := rfl
@[simp] theorem irqAck_inputs (b : Block) (m : BitVec 9) : (irqAck b m).inputs = b.inputs := rfl
@[simp] theorem irqAck_evqValid (b : Block) (m : BitVec 9) : (irqAck b m).evqValid = b.evqValid := rfl
@[simp] theorem irqAck_evqEntry (b : Block) (m : BitVec 9) : (irqAck b m).evqEntry = b.evqEntry := rfl
@[simp] theorem irqAck_irqStat (b : Block) (m : BitVec 9) : (irqAck b m).irqStat = b.irqStat &&& ~~~m := rfl
@[simp] theorem irqAck_irqEn (b : Block) (m : BitVec 9) : (irqAck b m).irqEn = b.irqEn := rfl
@[simp] theorem irqAck_respCode (b : Block) (m : BitVec 9) : (irqAck b m).respCode = b.respCode := rfl
@[simp] theorem irqAck_respOp (b : Block) (m : BitVec 9) : (irqAck b m).respOp = b.respOp := rfl

@[simp] theorem respond_acqRun (b : Block) (o : BitVec 4) (m : BitVec 8) : (respond b o m).acqRun = b.acqRun := rfl
@[simp] theorem respond_outRun (b : Block) (o : BitVec 4) (m : BitVec 8) : (respond b o m).outRun = b.outRun := rfl
@[simp] theorem respond_fatal (b : Block) (o : BitVec 4) (m : BitVec 8) : (respond b o m).fatal = b.fatal := rfl
@[simp] theorem respond_activeWave (b : Block) (o : BitVec 4) (m : BitVec 8) : (respond b o m).activeWave = b.activeWave := rfl
@[simp] theorem respond_op (b : Block) (o : BitVec 4) (m : BitVec 8) : (respond b o m).op = b.op := rfl
@[simp] theorem respond_rateDiv (b : Block) (o : BitVec 4) (m : BitVec 8) : (respond b o m).rateDiv = b.rateDiv := rfl
@[simp] theorem respond_sb (b : Block) (o : BitVec 4) (m : BitVec 8) : (respond b o m).sb = b.sb := rfl
@[simp] theorem respond_wp (b : Block) (o : BitVec 4) (m : BitVec 8) : (respond b o m).wp = b.wp := rfl
@[simp] theorem respond_bankOk (b : Block) (o : BitVec 4) (m : BitVec 8) : (respond b o m).bankOk = b.bankOk := rfl
@[simp] theorem respond_cbank (b : Block) (o : BitVec 4) (m : BitVec 8) : (respond b o m).cbank = b.cbank := rfl
@[simp] theorem respond_pending (b : Block) (o : BitVec 4) (m : BitVec 8) : (respond b o m).pending = b.pending := rfl
@[simp] theorem respond_wincnt (b : Block) (o : BitVec 4) (m : BitVec 8) : (respond b o m).wincnt = b.wincnt := rfl
@[simp] theorem respond_ovrCnt (b : Block) (o : BitVec 4) (m : BitVec 8) : (respond b o m).ovrCnt = b.ovrCnt := rfl
@[simp] theorem respond_skipCnt (b : Block) (o : BitVec 4) (m : BitVec 8) : (respond b o m).skipCnt = b.skipCnt := rfl
@[simp] theorem respond_dropCnt (b : Block) (o : BitVec 4) (m : BitVec 8) : (respond b o m).dropCnt = b.dropCnt := rfl
@[simp] theorem respond_engPhase (b : Block) (o : BitVec 4) (m : BitVec 8) : (respond b o m).engPhase = b.engPhase := rfl
@[simp] theorem respond_ldBank (b : Block) (o : BitVec 4) (m : BitVec 8) : (respond b o m).ldBank = b.ldBank := rfl
@[simp] theorem respond_engI (b : Block) (o : BitVec 4) (m : BitVec 8) : (respond b o m).engI = b.engI := rfl
@[simp] theorem respond_engStage (b : Block) (o : BitVec 4) (m : BitVec 8) : (respond b o m).engStage = b.engStage := rfl
@[simp] theorem respond_engQ (b : Block) (o : BitVec 4) (m : BitVec 8) : (respond b o m).engQ = b.engQ := rfl
@[simp] theorem respond_x (b : Block) (o : BitVec 4) (m : BitVec 8) : (respond b o m).x = b.x := rfl
@[simp] theorem respond_rb (b : Block) (o : BitVec 4) (m : BitVec 8) : (respond b o m).rb = b.rb := rfl
@[simp] theorem respond_front (b : Block) (o : BitVec 4) (m : BitVec 8) : (respond b o m).front = b.front := rfl
@[simp] theorem respond_version (b : Block) (o : BitVec 4) (m : BitVec 8) : (respond b o m).version = b.version := rfl
@[simp] theorem respond_bankVer (b : Block) (o : BitVec 4) (m : BitVec 8) : (respond b o m).bankVer = b.bankVer := rfl
@[simp] theorem respond_slots (b : Block) (o : BitVec 4) (m : BitVec 8) : (respond b o m).slots = b.slots := rfl
@[simp] theorem respond_reqStart (b : Block) (o : BitVec 4) (m : BitVec 8) : (respond b o m).reqStart = b.reqStart := rfl
@[simp] theorem respond_reqCount (b : Block) (o : BitVec 4) (m : BitVec 8) : (respond b o m).reqCount = b.reqCount := rfl
@[simp] theorem respond_armed (b : Block) (o : BitVec 4) (m : BitVec 8) : (respond b o m).armed = b.armed := rfl
@[simp] theorem respond_rcState (b : Block) (o : BitVec 4) (m : BitVec 8) : (respond b o m).rcState = b.rcState := rfl
@[simp] theorem respond_rcStart (b : Block) (o : BitVec 4) (m : BitVec 8) : (respond b o m).rcStart = b.rcStart := rfl
@[simp] theorem respond_rcCount (b : Block) (o : BitVec 4) (m : BitVec 8) : (respond b o m).rcCount = b.rcCount := rfl
@[simp] theorem respond_rcIdx (b : Block) (o : BitVec 4) (m : BitVec 8) : (respond b o m).rcIdx = b.rcIdx := rfl
@[simp] theorem respond_rptOut (b : Block) (o : BitVec 4) (m : BitVec 8) : (respond b o m).rptOut = b.rptOut := rfl
@[simp] theorem respond_inputs (b : Block) (o : BitVec 4) (m : BitVec 8) : (respond b o m).inputs = b.inputs := rfl
@[simp] theorem respond_evqValid (b : Block) (o : BitVec 4) (m : BitVec 8) : (respond b o m).evqValid = b.evqValid := rfl
@[simp] theorem respond_evqEntry (b : Block) (o : BitVec 4) (m : BitVec 8) : (respond b o m).evqEntry = b.evqEntry := rfl
@[simp] theorem respond_irqStat (b : Block) (o : BitVec 4) (m : BitVec 8) : (respond b o m).irqStat = b.irqStat := rfl
@[simp] theorem respond_irqEn (b : Block) (o : BitVec 4) (m : BitVec 8) : (respond b o m).irqEn = b.irqEn := rfl
@[simp] theorem respond_respCode (b : Block) (o : BitVec 4) (m : BitVec 8) : (respond b o m).respCode = m := rfl
@[simp] theorem respond_respOp (b : Block) (o : BitVec 4) (m : BitVec 8) : (respond b o m).respOp = o := rfl

@[simp] theorem setSb_acqRun (b : Block) (j : Nat) (v : Sample) : (setSb b j v).acqRun = b.acqRun := rfl
@[simp] theorem setSb_outRun (b : Block) (j : Nat) (v : Sample) : (setSb b j v).outRun = b.outRun := rfl
@[simp] theorem setSb_fatal (b : Block) (j : Nat) (v : Sample) : (setSb b j v).fatal = b.fatal := rfl
@[simp] theorem setSb_activeWave (b : Block) (j : Nat) (v : Sample) : (setSb b j v).activeWave = b.activeWave := rfl
@[simp] theorem setSb_op (b : Block) (j : Nat) (v : Sample) : (setSb b j v).op = b.op := rfl
@[simp] theorem setSb_rateDiv (b : Block) (j : Nat) (v : Sample) : (setSb b j v).rateDiv = b.rateDiv := rfl
@[simp] theorem setSb_sb (b : Block) (j : Nat) (v : Sample) : (setSb b j v).sb = b.sb.set 0 j v := rfl
@[simp] theorem setSb_wp (b : Block) (j : Nat) (v : Sample) : (setSb b j v).wp = b.wp := rfl
@[simp] theorem setSb_bankOk (b : Block) (j : Nat) (v : Sample) : (setSb b j v).bankOk = b.bankOk := rfl
@[simp] theorem setSb_cbank (b : Block) (j : Nat) (v : Sample) : (setSb b j v).cbank = b.cbank := rfl
@[simp] theorem setSb_pending (b : Block) (j : Nat) (v : Sample) : (setSb b j v).pending = b.pending := rfl
@[simp] theorem setSb_wincnt (b : Block) (j : Nat) (v : Sample) : (setSb b j v).wincnt = b.wincnt := rfl
@[simp] theorem setSb_ovrCnt (b : Block) (j : Nat) (v : Sample) : (setSb b j v).ovrCnt = b.ovrCnt := rfl
@[simp] theorem setSb_skipCnt (b : Block) (j : Nat) (v : Sample) : (setSb b j v).skipCnt = b.skipCnt := rfl
@[simp] theorem setSb_dropCnt (b : Block) (j : Nat) (v : Sample) : (setSb b j v).dropCnt = b.dropCnt := rfl
@[simp] theorem setSb_engPhase (b : Block) (j : Nat) (v : Sample) : (setSb b j v).engPhase = b.engPhase := rfl
@[simp] theorem setSb_ldBank (b : Block) (j : Nat) (v : Sample) : (setSb b j v).ldBank = b.ldBank := rfl
@[simp] theorem setSb_engI (b : Block) (j : Nat) (v : Sample) : (setSb b j v).engI = b.engI := rfl
@[simp] theorem setSb_engStage (b : Block) (j : Nat) (v : Sample) : (setSb b j v).engStage = b.engStage := rfl
@[simp] theorem setSb_engQ (b : Block) (j : Nat) (v : Sample) : (setSb b j v).engQ = b.engQ := rfl
@[simp] theorem setSb_x (b : Block) (j : Nat) (v : Sample) : (setSb b j v).x = b.x := rfl
@[simp] theorem setSb_rb (b : Block) (j : Nat) (v : Sample) : (setSb b j v).rb = b.rb := rfl
@[simp] theorem setSb_front (b : Block) (j : Nat) (v : Sample) : (setSb b j v).front = b.front := rfl
@[simp] theorem setSb_version (b : Block) (j : Nat) (v : Sample) : (setSb b j v).version = b.version := rfl
@[simp] theorem setSb_bankVer (b : Block) (j : Nat) (v : Sample) : (setSb b j v).bankVer = b.bankVer := rfl
@[simp] theorem setSb_slots (b : Block) (j : Nat) (v : Sample) : (setSb b j v).slots = b.slots := rfl
@[simp] theorem setSb_reqStart (b : Block) (j : Nat) (v : Sample) : (setSb b j v).reqStart = b.reqStart := rfl
@[simp] theorem setSb_reqCount (b : Block) (j : Nat) (v : Sample) : (setSb b j v).reqCount = b.reqCount := rfl
@[simp] theorem setSb_armed (b : Block) (j : Nat) (v : Sample) : (setSb b j v).armed = b.armed := rfl
@[simp] theorem setSb_rcState (b : Block) (j : Nat) (v : Sample) : (setSb b j v).rcState = b.rcState := rfl
@[simp] theorem setSb_rcStart (b : Block) (j : Nat) (v : Sample) : (setSb b j v).rcStart = b.rcStart := rfl
@[simp] theorem setSb_rcCount (b : Block) (j : Nat) (v : Sample) : (setSb b j v).rcCount = b.rcCount := rfl
@[simp] theorem setSb_rcIdx (b : Block) (j : Nat) (v : Sample) : (setSb b j v).rcIdx = b.rcIdx := rfl
@[simp] theorem setSb_rptOut (b : Block) (j : Nat) (v : Sample) : (setSb b j v).rptOut = b.rptOut := rfl
@[simp] theorem setSb_inputs (b : Block) (j : Nat) (v : Sample) : (setSb b j v).inputs = b.inputs := rfl
@[simp] theorem setSb_evqValid (b : Block) (j : Nat) (v : Sample) : (setSb b j v).evqValid = b.evqValid := rfl
@[simp] theorem setSb_evqEntry (b : Block) (j : Nat) (v : Sample) : (setSb b j v).evqEntry = b.evqEntry := rfl
@[simp] theorem setSb_irqStat (b : Block) (j : Nat) (v : Sample) : (setSb b j v).irqStat = b.irqStat := rfl
@[simp] theorem setSb_irqEn (b : Block) (j : Nat) (v : Sample) : (setSb b j v).irqEn = b.irqEn := rfl
@[simp] theorem setSb_respCode (b : Block) (j : Nat) (v : Sample) : (setSb b j v).respCode = b.respCode := rfl
@[simp] theorem setSb_respOp (b : Block) (j : Nat) (v : Sample) : (setSb b j v).respOp = b.respOp := rfl

@[simp] theorem setX_acqRun (b : Block) (k : Nat) (v : Cplx) : (setX b k v).acqRun = b.acqRun := rfl
@[simp] theorem setX_outRun (b : Block) (k : Nat) (v : Cplx) : (setX b k v).outRun = b.outRun := rfl
@[simp] theorem setX_fatal (b : Block) (k : Nat) (v : Cplx) : (setX b k v).fatal = b.fatal := rfl
@[simp] theorem setX_activeWave (b : Block) (k : Nat) (v : Cplx) : (setX b k v).activeWave = b.activeWave := rfl
@[simp] theorem setX_op (b : Block) (k : Nat) (v : Cplx) : (setX b k v).op = b.op := rfl
@[simp] theorem setX_rateDiv (b : Block) (k : Nat) (v : Cplx) : (setX b k v).rateDiv = b.rateDiv := rfl
@[simp] theorem setX_sb (b : Block) (k : Nat) (v : Cplx) : (setX b k v).sb = b.sb := rfl
@[simp] theorem setX_wp (b : Block) (k : Nat) (v : Cplx) : (setX b k v).wp = b.wp := rfl
@[simp] theorem setX_bankOk (b : Block) (k : Nat) (v : Cplx) : (setX b k v).bankOk = b.bankOk := rfl
@[simp] theorem setX_cbank (b : Block) (k : Nat) (v : Cplx) : (setX b k v).cbank = b.cbank := rfl
@[simp] theorem setX_pending (b : Block) (k : Nat) (v : Cplx) : (setX b k v).pending = b.pending := rfl
@[simp] theorem setX_wincnt (b : Block) (k : Nat) (v : Cplx) : (setX b k v).wincnt = b.wincnt := rfl
@[simp] theorem setX_ovrCnt (b : Block) (k : Nat) (v : Cplx) : (setX b k v).ovrCnt = b.ovrCnt := rfl
@[simp] theorem setX_skipCnt (b : Block) (k : Nat) (v : Cplx) : (setX b k v).skipCnt = b.skipCnt := rfl
@[simp] theorem setX_dropCnt (b : Block) (k : Nat) (v : Cplx) : (setX b k v).dropCnt = b.dropCnt := rfl
@[simp] theorem setX_engPhase (b : Block) (k : Nat) (v : Cplx) : (setX b k v).engPhase = b.engPhase := rfl
@[simp] theorem setX_ldBank (b : Block) (k : Nat) (v : Cplx) : (setX b k v).ldBank = b.ldBank := rfl
@[simp] theorem setX_engI (b : Block) (k : Nat) (v : Cplx) : (setX b k v).engI = b.engI := rfl
@[simp] theorem setX_engStage (b : Block) (k : Nat) (v : Cplx) : (setX b k v).engStage = b.engStage := rfl
@[simp] theorem setX_engQ (b : Block) (k : Nat) (v : Cplx) : (setX b k v).engQ = b.engQ := rfl
@[simp] theorem setX_x (b : Block) (k : Nat) (v : Cplx) : (setX b k v).x = b.x.set Cplx.zero k v := rfl
@[simp] theorem setX_rb (b : Block) (k : Nat) (v : Cplx) : (setX b k v).rb = b.rb := rfl
@[simp] theorem setX_front (b : Block) (k : Nat) (v : Cplx) : (setX b k v).front = b.front := rfl
@[simp] theorem setX_version (b : Block) (k : Nat) (v : Cplx) : (setX b k v).version = b.version := rfl
@[simp] theorem setX_bankVer (b : Block) (k : Nat) (v : Cplx) : (setX b k v).bankVer = b.bankVer := rfl
@[simp] theorem setX_slots (b : Block) (k : Nat) (v : Cplx) : (setX b k v).slots = b.slots := rfl
@[simp] theorem setX_reqStart (b : Block) (k : Nat) (v : Cplx) : (setX b k v).reqStart = b.reqStart := rfl
@[simp] theorem setX_reqCount (b : Block) (k : Nat) (v : Cplx) : (setX b k v).reqCount = b.reqCount := rfl
@[simp] theorem setX_armed (b : Block) (k : Nat) (v : Cplx) : (setX b k v).armed = b.armed := rfl
@[simp] theorem setX_rcState (b : Block) (k : Nat) (v : Cplx) : (setX b k v).rcState = b.rcState := rfl
@[simp] theorem setX_rcStart (b : Block) (k : Nat) (v : Cplx) : (setX b k v).rcStart = b.rcStart := rfl
@[simp] theorem setX_rcCount (b : Block) (k : Nat) (v : Cplx) : (setX b k v).rcCount = b.rcCount := rfl
@[simp] theorem setX_rcIdx (b : Block) (k : Nat) (v : Cplx) : (setX b k v).rcIdx = b.rcIdx := rfl
@[simp] theorem setX_rptOut (b : Block) (k : Nat) (v : Cplx) : (setX b k v).rptOut = b.rptOut := rfl
@[simp] theorem setX_inputs (b : Block) (k : Nat) (v : Cplx) : (setX b k v).inputs = b.inputs := rfl
@[simp] theorem setX_evqValid (b : Block) (k : Nat) (v : Cplx) : (setX b k v).evqValid = b.evqValid := rfl
@[simp] theorem setX_evqEntry (b : Block) (k : Nat) (v : Cplx) : (setX b k v).evqEntry = b.evqEntry := rfl
@[simp] theorem setX_irqStat (b : Block) (k : Nat) (v : Cplx) : (setX b k v).irqStat = b.irqStat := rfl
@[simp] theorem setX_irqEn (b : Block) (k : Nat) (v : Cplx) : (setX b k v).irqEn = b.irqEn := rfl
@[simp] theorem setX_respCode (b : Block) (k : Nat) (v : Cplx) : (setX b k v).respCode = b.respCode := rfl
@[simp] theorem setX_respOp (b : Block) (k : Nat) (v : Cplx) : (setX b k v).respOp = b.respOp := rfl

@[simp] theorem setRb_acqRun (b : Block) (p : Bank) (k : Nat) (v : Word) : (setRb b p k v).acqRun = b.acqRun := rfl
@[simp] theorem setRb_outRun (b : Block) (p : Bank) (k : Nat) (v : Word) : (setRb b p k v).outRun = b.outRun := rfl
@[simp] theorem setRb_fatal (b : Block) (p : Bank) (k : Nat) (v : Word) : (setRb b p k v).fatal = b.fatal := rfl
@[simp] theorem setRb_activeWave (b : Block) (p : Bank) (k : Nat) (v : Word) : (setRb b p k v).activeWave = b.activeWave := rfl
@[simp] theorem setRb_op (b : Block) (p : Bank) (k : Nat) (v : Word) : (setRb b p k v).op = b.op := rfl
@[simp] theorem setRb_rateDiv (b : Block) (p : Bank) (k : Nat) (v : Word) : (setRb b p k v).rateDiv = b.rateDiv := rfl
@[simp] theorem setRb_sb (b : Block) (p : Bank) (k : Nat) (v : Word) : (setRb b p k v).sb = b.sb := rfl
@[simp] theorem setRb_wp (b : Block) (p : Bank) (k : Nat) (v : Word) : (setRb b p k v).wp = b.wp := rfl
@[simp] theorem setRb_bankOk (b : Block) (p : Bank) (k : Nat) (v : Word) : (setRb b p k v).bankOk = b.bankOk := rfl
@[simp] theorem setRb_cbank (b : Block) (p : Bank) (k : Nat) (v : Word) : (setRb b p k v).cbank = b.cbank := rfl
@[simp] theorem setRb_pending (b : Block) (p : Bank) (k : Nat) (v : Word) : (setRb b p k v).pending = b.pending := rfl
@[simp] theorem setRb_wincnt (b : Block) (p : Bank) (k : Nat) (v : Word) : (setRb b p k v).wincnt = b.wincnt := rfl
@[simp] theorem setRb_ovrCnt (b : Block) (p : Bank) (k : Nat) (v : Word) : (setRb b p k v).ovrCnt = b.ovrCnt := rfl
@[simp] theorem setRb_skipCnt (b : Block) (p : Bank) (k : Nat) (v : Word) : (setRb b p k v).skipCnt = b.skipCnt := rfl
@[simp] theorem setRb_dropCnt (b : Block) (p : Bank) (k : Nat) (v : Word) : (setRb b p k v).dropCnt = b.dropCnt := rfl
@[simp] theorem setRb_engPhase (b : Block) (p : Bank) (k : Nat) (v : Word) : (setRb b p k v).engPhase = b.engPhase := rfl
@[simp] theorem setRb_ldBank (b : Block) (p : Bank) (k : Nat) (v : Word) : (setRb b p k v).ldBank = b.ldBank := rfl
@[simp] theorem setRb_engI (b : Block) (p : Bank) (k : Nat) (v : Word) : (setRb b p k v).engI = b.engI := rfl
@[simp] theorem setRb_engStage (b : Block) (p : Bank) (k : Nat) (v : Word) : (setRb b p k v).engStage = b.engStage := rfl
@[simp] theorem setRb_engQ (b : Block) (p : Bank) (k : Nat) (v : Word) : (setRb b p k v).engQ = b.engQ := rfl
@[simp] theorem setRb_x (b : Block) (p : Bank) (k : Nat) (v : Word) : (setRb b p k v).x = b.x := rfl
@[simp] theorem setRb_rb (b : Block) (p : Bank) (k : Nat) (v : Word) : (setRb b p k v).rb = b.rb.set p ((b.rb.get p).set 0 k v) := rfl
@[simp] theorem setRb_front (b : Block) (p : Bank) (k : Nat) (v : Word) : (setRb b p k v).front = b.front := rfl
@[simp] theorem setRb_version (b : Block) (p : Bank) (k : Nat) (v : Word) : (setRb b p k v).version = b.version := rfl
@[simp] theorem setRb_bankVer (b : Block) (p : Bank) (k : Nat) (v : Word) : (setRb b p k v).bankVer = b.bankVer := rfl
@[simp] theorem setRb_slots (b : Block) (p : Bank) (k : Nat) (v : Word) : (setRb b p k v).slots = b.slots := rfl
@[simp] theorem setRb_reqStart (b : Block) (p : Bank) (k : Nat) (v : Word) : (setRb b p k v).reqStart = b.reqStart := rfl
@[simp] theorem setRb_reqCount (b : Block) (p : Bank) (k : Nat) (v : Word) : (setRb b p k v).reqCount = b.reqCount := rfl
@[simp] theorem setRb_armed (b : Block) (p : Bank) (k : Nat) (v : Word) : (setRb b p k v).armed = b.armed := rfl
@[simp] theorem setRb_rcState (b : Block) (p : Bank) (k : Nat) (v : Word) : (setRb b p k v).rcState = b.rcState := rfl
@[simp] theorem setRb_rcStart (b : Block) (p : Bank) (k : Nat) (v : Word) : (setRb b p k v).rcStart = b.rcStart := rfl
@[simp] theorem setRb_rcCount (b : Block) (p : Bank) (k : Nat) (v : Word) : (setRb b p k v).rcCount = b.rcCount := rfl
@[simp] theorem setRb_rcIdx (b : Block) (p : Bank) (k : Nat) (v : Word) : (setRb b p k v).rcIdx = b.rcIdx := rfl
@[simp] theorem setRb_rptOut (b : Block) (p : Bank) (k : Nat) (v : Word) : (setRb b p k v).rptOut = b.rptOut := rfl
@[simp] theorem setRb_inputs (b : Block) (p : Bank) (k : Nat) (v : Word) : (setRb b p k v).inputs = b.inputs := rfl
@[simp] theorem setRb_evqValid (b : Block) (p : Bank) (k : Nat) (v : Word) : (setRb b p k v).evqValid = b.evqValid := rfl
@[simp] theorem setRb_evqEntry (b : Block) (p : Bank) (k : Nat) (v : Word) : (setRb b p k v).evqEntry = b.evqEntry := rfl
@[simp] theorem setRb_irqStat (b : Block) (p : Bank) (k : Nat) (v : Word) : (setRb b p k v).irqStat = b.irqStat := rfl
@[simp] theorem setRb_irqEn (b : Block) (p : Bank) (k : Nat) (v : Word) : (setRb b p k v).irqEn = b.irqEn := rfl
@[simp] theorem setRb_respCode (b : Block) (p : Bank) (k : Nat) (v : Word) : (setRb b p k v).respCode = b.respCode := rfl
@[simp] theorem setRb_respOp (b : Block) (p : Bank) (k : Nat) (v : Word) : (setRb b p k v).respOp = b.respOp := rfl

@[simp] theorem setSlot_acqRun (b : Block) (n : Nat) (v : Latch) : (setSlot b n v).acqRun = b.acqRun := rfl
@[simp] theorem setSlot_outRun (b : Block) (n : Nat) (v : Latch) : (setSlot b n v).outRun = b.outRun := rfl
@[simp] theorem setSlot_fatal (b : Block) (n : Nat) (v : Latch) : (setSlot b n v).fatal = b.fatal := rfl
@[simp] theorem setSlot_activeWave (b : Block) (n : Nat) (v : Latch) : (setSlot b n v).activeWave = b.activeWave := rfl
@[simp] theorem setSlot_op (b : Block) (n : Nat) (v : Latch) : (setSlot b n v).op = b.op := rfl
@[simp] theorem setSlot_rateDiv (b : Block) (n : Nat) (v : Latch) : (setSlot b n v).rateDiv = b.rateDiv := rfl
@[simp] theorem setSlot_sb (b : Block) (n : Nat) (v : Latch) : (setSlot b n v).sb = b.sb := rfl
@[simp] theorem setSlot_wp (b : Block) (n : Nat) (v : Latch) : (setSlot b n v).wp = b.wp := rfl
@[simp] theorem setSlot_bankOk (b : Block) (n : Nat) (v : Latch) : (setSlot b n v).bankOk = b.bankOk := rfl
@[simp] theorem setSlot_cbank (b : Block) (n : Nat) (v : Latch) : (setSlot b n v).cbank = b.cbank := rfl
@[simp] theorem setSlot_pending (b : Block) (n : Nat) (v : Latch) : (setSlot b n v).pending = b.pending := rfl
@[simp] theorem setSlot_wincnt (b : Block) (n : Nat) (v : Latch) : (setSlot b n v).wincnt = b.wincnt := rfl
@[simp] theorem setSlot_ovrCnt (b : Block) (n : Nat) (v : Latch) : (setSlot b n v).ovrCnt = b.ovrCnt := rfl
@[simp] theorem setSlot_skipCnt (b : Block) (n : Nat) (v : Latch) : (setSlot b n v).skipCnt = b.skipCnt := rfl
@[simp] theorem setSlot_dropCnt (b : Block) (n : Nat) (v : Latch) : (setSlot b n v).dropCnt = b.dropCnt := rfl
@[simp] theorem setSlot_engPhase (b : Block) (n : Nat) (v : Latch) : (setSlot b n v).engPhase = b.engPhase := rfl
@[simp] theorem setSlot_ldBank (b : Block) (n : Nat) (v : Latch) : (setSlot b n v).ldBank = b.ldBank := rfl
@[simp] theorem setSlot_engI (b : Block) (n : Nat) (v : Latch) : (setSlot b n v).engI = b.engI := rfl
@[simp] theorem setSlot_engStage (b : Block) (n : Nat) (v : Latch) : (setSlot b n v).engStage = b.engStage := rfl
@[simp] theorem setSlot_engQ (b : Block) (n : Nat) (v : Latch) : (setSlot b n v).engQ = b.engQ := rfl
@[simp] theorem setSlot_x (b : Block) (n : Nat) (v : Latch) : (setSlot b n v).x = b.x := rfl
@[simp] theorem setSlot_rb (b : Block) (n : Nat) (v : Latch) : (setSlot b n v).rb = b.rb := rfl
@[simp] theorem setSlot_front (b : Block) (n : Nat) (v : Latch) : (setSlot b n v).front = b.front := rfl
@[simp] theorem setSlot_version (b : Block) (n : Nat) (v : Latch) : (setSlot b n v).version = b.version := rfl
@[simp] theorem setSlot_bankVer (b : Block) (n : Nat) (v : Latch) : (setSlot b n v).bankVer = b.bankVer := rfl
@[simp] theorem setSlot_slots (b : Block) (n : Nat) (v : Latch) : (setSlot b n v).slots = b.slots.set Latch.atReset n v := rfl
@[simp] theorem setSlot_reqStart (b : Block) (n : Nat) (v : Latch) : (setSlot b n v).reqStart = b.reqStart := rfl
@[simp] theorem setSlot_reqCount (b : Block) (n : Nat) (v : Latch) : (setSlot b n v).reqCount = b.reqCount := rfl
@[simp] theorem setSlot_armed (b : Block) (n : Nat) (v : Latch) : (setSlot b n v).armed = b.armed := rfl
@[simp] theorem setSlot_rcState (b : Block) (n : Nat) (v : Latch) : (setSlot b n v).rcState = b.rcState := rfl
@[simp] theorem setSlot_rcStart (b : Block) (n : Nat) (v : Latch) : (setSlot b n v).rcStart = b.rcStart := rfl
@[simp] theorem setSlot_rcCount (b : Block) (n : Nat) (v : Latch) : (setSlot b n v).rcCount = b.rcCount := rfl
@[simp] theorem setSlot_rcIdx (b : Block) (n : Nat) (v : Latch) : (setSlot b n v).rcIdx = b.rcIdx := rfl
@[simp] theorem setSlot_rptOut (b : Block) (n : Nat) (v : Latch) : (setSlot b n v).rptOut = b.rptOut := rfl
@[simp] theorem setSlot_inputs (b : Block) (n : Nat) (v : Latch) : (setSlot b n v).inputs = b.inputs := rfl
@[simp] theorem setSlot_evqValid (b : Block) (n : Nat) (v : Latch) : (setSlot b n v).evqValid = b.evqValid := rfl
@[simp] theorem setSlot_evqEntry (b : Block) (n : Nat) (v : Latch) : (setSlot b n v).evqEntry = b.evqEntry := rfl
@[simp] theorem setSlot_irqStat (b : Block) (n : Nat) (v : Latch) : (setSlot b n v).irqStat = b.irqStat := rfl
@[simp] theorem setSlot_irqEn (b : Block) (n : Nat) (v : Latch) : (setSlot b n v).irqEn = b.irqEn := rfl
@[simp] theorem setSlot_respCode (b : Block) (n : Nat) (v : Latch) : (setSlot b n v).respCode = b.respCode := rfl
@[simp] theorem setSlot_respOp (b : Block) (n : Nat) (v : Latch) : (setSlot b n v).respOp = b.respOp := rfl

@[simp] theorem setInput_acqRun (b : Block) (i : Nat) (v : DbInput) : (setInput b i v).acqRun = b.acqRun := rfl
@[simp] theorem setInput_outRun (b : Block) (i : Nat) (v : DbInput) : (setInput b i v).outRun = b.outRun := rfl
@[simp] theorem setInput_fatal (b : Block) (i : Nat) (v : DbInput) : (setInput b i v).fatal = b.fatal := rfl
@[simp] theorem setInput_activeWave (b : Block) (i : Nat) (v : DbInput) : (setInput b i v).activeWave = b.activeWave := rfl
@[simp] theorem setInput_op (b : Block) (i : Nat) (v : DbInput) : (setInput b i v).op = b.op := rfl
@[simp] theorem setInput_rateDiv (b : Block) (i : Nat) (v : DbInput) : (setInput b i v).rateDiv = b.rateDiv := rfl
@[simp] theorem setInput_sb (b : Block) (i : Nat) (v : DbInput) : (setInput b i v).sb = b.sb := rfl
@[simp] theorem setInput_wp (b : Block) (i : Nat) (v : DbInput) : (setInput b i v).wp = b.wp := rfl
@[simp] theorem setInput_bankOk (b : Block) (i : Nat) (v : DbInput) : (setInput b i v).bankOk = b.bankOk := rfl
@[simp] theorem setInput_cbank (b : Block) (i : Nat) (v : DbInput) : (setInput b i v).cbank = b.cbank := rfl
@[simp] theorem setInput_pending (b : Block) (i : Nat) (v : DbInput) : (setInput b i v).pending = b.pending := rfl
@[simp] theorem setInput_wincnt (b : Block) (i : Nat) (v : DbInput) : (setInput b i v).wincnt = b.wincnt := rfl
@[simp] theorem setInput_ovrCnt (b : Block) (i : Nat) (v : DbInput) : (setInput b i v).ovrCnt = b.ovrCnt := rfl
@[simp] theorem setInput_skipCnt (b : Block) (i : Nat) (v : DbInput) : (setInput b i v).skipCnt = b.skipCnt := rfl
@[simp] theorem setInput_dropCnt (b : Block) (i : Nat) (v : DbInput) : (setInput b i v).dropCnt = b.dropCnt := rfl
@[simp] theorem setInput_engPhase (b : Block) (i : Nat) (v : DbInput) : (setInput b i v).engPhase = b.engPhase := rfl
@[simp] theorem setInput_ldBank (b : Block) (i : Nat) (v : DbInput) : (setInput b i v).ldBank = b.ldBank := rfl
@[simp] theorem setInput_engI (b : Block) (i : Nat) (v : DbInput) : (setInput b i v).engI = b.engI := rfl
@[simp] theorem setInput_engStage (b : Block) (i : Nat) (v : DbInput) : (setInput b i v).engStage = b.engStage := rfl
@[simp] theorem setInput_engQ (b : Block) (i : Nat) (v : DbInput) : (setInput b i v).engQ = b.engQ := rfl
@[simp] theorem setInput_x (b : Block) (i : Nat) (v : DbInput) : (setInput b i v).x = b.x := rfl
@[simp] theorem setInput_rb (b : Block) (i : Nat) (v : DbInput) : (setInput b i v).rb = b.rb := rfl
@[simp] theorem setInput_front (b : Block) (i : Nat) (v : DbInput) : (setInput b i v).front = b.front := rfl
@[simp] theorem setInput_version (b : Block) (i : Nat) (v : DbInput) : (setInput b i v).version = b.version := rfl
@[simp] theorem setInput_bankVer (b : Block) (i : Nat) (v : DbInput) : (setInput b i v).bankVer = b.bankVer := rfl
@[simp] theorem setInput_slots (b : Block) (i : Nat) (v : DbInput) : (setInput b i v).slots = b.slots := rfl
@[simp] theorem setInput_reqStart (b : Block) (i : Nat) (v : DbInput) : (setInput b i v).reqStart = b.reqStart := rfl
@[simp] theorem setInput_reqCount (b : Block) (i : Nat) (v : DbInput) : (setInput b i v).reqCount = b.reqCount := rfl
@[simp] theorem setInput_armed (b : Block) (i : Nat) (v : DbInput) : (setInput b i v).armed = b.armed := rfl
@[simp] theorem setInput_rcState (b : Block) (i : Nat) (v : DbInput) : (setInput b i v).rcState = b.rcState := rfl
@[simp] theorem setInput_rcStart (b : Block) (i : Nat) (v : DbInput) : (setInput b i v).rcStart = b.rcStart := rfl
@[simp] theorem setInput_rcCount (b : Block) (i : Nat) (v : DbInput) : (setInput b i v).rcCount = b.rcCount := rfl
@[simp] theorem setInput_rcIdx (b : Block) (i : Nat) (v : DbInput) : (setInput b i v).rcIdx = b.rcIdx := rfl
@[simp] theorem setInput_rptOut (b : Block) (i : Nat) (v : DbInput) : (setInput b i v).rptOut = b.rptOut := rfl
@[simp] theorem setInput_inputs (b : Block) (i : Nat) (v : DbInput) : (setInput b i v).inputs = b.inputs.set DbInput.atReset i v := rfl
@[simp] theorem setInput_evqValid (b : Block) (i : Nat) (v : DbInput) : (setInput b i v).evqValid = b.evqValid := rfl
@[simp] theorem setInput_evqEntry (b : Block) (i : Nat) (v : DbInput) : (setInput b i v).evqEntry = b.evqEntry := rfl
@[simp] theorem setInput_irqStat (b : Block) (i : Nat) (v : DbInput) : (setInput b i v).irqStat = b.irqStat := rfl
@[simp] theorem setInput_irqEn (b : Block) (i : Nat) (v : DbInput) : (setInput b i v).irqEn = b.irqEn := rfl
@[simp] theorem setInput_respCode (b : Block) (i : Nat) (v : DbInput) : (setInput b i v).respCode = b.respCode := rfl
@[simp] theorem setInput_respOp (b : Block) (i : Nat) (v : DbInput) : (setInput b i v).respOp = b.respOp := rfl

/-! ### Updates of the machine -/

@[simp] theorem State.settle_cfg (s : State) (b : Block) (evs : List Event) : (s.settle b evs).cfg = s.cfg := rfl
@[simp] theorem State.settle_blk (s : State) (b : Block) (evs : List Event) : (s.settle b evs).blk = b := rfl
@[simp] theorem State.settle_sched (s : State) (b : Block) (evs : List Event) : (s.settle b evs).sched = s.sched := rfl
@[simp] theorem State.settle_drawn (s : State) (b : Block) (evs : List Event) : (s.settle b evs).drawn = s.drawn := rfl
@[simp] theorem State.settle_trace (s : State) (b : Block) (evs : List Event) : (s.settle b evs).trace = s.trace ++ evs ++ irqEvents s.blk b := rfl
@[simp] theorem State.settle_replies (s : State) (b : Block) (evs : List Event) : (s.settle b evs).replies = s.replies := rfl

@[simp] theorem State.answer_cfg (s : State) (b : Block) (r : Reply) : (s.answer b r).cfg = s.cfg := rfl
@[simp] theorem State.answer_blk (s : State) (b : Block) (r : Reply) : (s.answer b r).blk = b := rfl
@[simp] theorem State.answer_sched (s : State) (b : Block) (r : Reply) : (s.answer b r).sched = s.sched := rfl
@[simp] theorem State.answer_drawn (s : State) (b : Block) (r : Reply) : (s.answer b r).drawn = s.drawn := rfl
@[simp] theorem State.answer_trace (s : State) (b : Block) (r : Reply) : (s.answer b r).trace = s.trace ++ [] ++ irqEvents s.blk b := rfl
@[simp] theorem State.answer_replies (s : State) (b : Block) (r : Reply) : (s.answer b r).replies = s.replies ++ [r] := rfl

@[simp] theorem State.command_cfg (s : State) (b : Block) (o : BitVec 4) (m : BitVec 8) : (s.command b o m).cfg = s.cfg := rfl
@[simp] theorem State.command_blk (s : State) (b : Block) (o : BitVec 4) (m : BitVec 8) : (s.command b o m).blk = respond b o m := rfl
@[simp] theorem State.command_sched (s : State) (b : Block) (o : BitVec 4) (m : BitVec 8) : (s.command b o m).sched = s.sched := rfl
@[simp] theorem State.command_drawn (s : State) (b : Block) (o : BitVec 4) (m : BitVec 8) : (s.command b o m).drawn = s.drawn := rfl
@[simp] theorem State.command_trace (s : State) (b : Block) (o : BitVec 4) (m : BitVec 8) : (s.command b o m).trace = s.trace ++ [] ++ irqEvents s.blk (respond b o m) := rfl
@[simp] theorem State.command_replies (s : State) (b : Block) (o : BitVec 4) (m : BitVec 8) : (s.command b o m).replies = s.replies ++ [.write .okay] := rfl

@[simp] theorem State.readOk_cfg (s : State) (v : Word) : (s.readOk v).cfg = s.cfg := rfl
@[simp] theorem State.readOk_blk (s : State) (v : Word) : (s.readOk v).blk = s.blk := rfl
@[simp] theorem State.readOk_sched (s : State) (v : Word) : (s.readOk v).sched = s.sched := rfl
@[simp] theorem State.readOk_drawn (s : State) (v : Word) : (s.readOk v).drawn = s.drawn := rfl
@[simp] theorem State.readOk_trace (s : State) (v : Word) : (s.readOk v).trace = s.trace ++ [] ++ irqEvents s.blk s.blk := rfl
@[simp] theorem State.readOk_replies (s : State) (v : Word) : (s.readOk v).replies = s.replies ++ [.read v .okay] := rfl

@[simp] theorem State.readError_cfg (s : State) : (s.readError).cfg = s.cfg := rfl
@[simp] theorem State.readError_blk (s : State) : (s.readError).blk = s.blk := rfl
@[simp] theorem State.readError_sched (s : State) : (s.readError).sched = s.sched := rfl
@[simp] theorem State.readError_drawn (s : State) : (s.readError).drawn = s.drawn := rfl
@[simp] theorem State.readError_trace (s : State) : (s.readError).trace = s.trace ++ [] ++ irqEvents s.blk s.blk := rfl
@[simp] theorem State.readError_replies (s : State) : (s.readError).replies = s.replies ++ [.read 0 .slverr] := rfl

@[simp] theorem State.writeError_cfg (s : State) : (s.writeError).cfg = s.cfg := rfl
@[simp] theorem State.writeError_blk (s : State) : (s.writeError).blk = s.blk := rfl
@[simp] theorem State.writeError_sched (s : State) : (s.writeError).sched = s.sched := rfl
@[simp] theorem State.writeError_drawn (s : State) : (s.writeError).drawn = s.drawn := rfl
@[simp] theorem State.writeError_trace (s : State) : (s.writeError).trace = s.trace ++ [] ++ irqEvents s.blk s.blk := rfl
@[simp] theorem State.writeError_replies (s : State) : (s.writeError).replies = s.replies ++ [.write .slverr] := rfl

@[simp] theorem State.withNext_cfg (s : State) (a : Action) : (s.withNext a).cfg = s.cfg := rfl
@[simp] theorem State.withNext_blk (s : State) (a : Action) : (s.withNext a).blk = s.blk := rfl
@[simp] theorem State.withNext_sched (s : State) (a : Action) : (s.withNext a).sched = a :: s.sched := rfl
@[simp] theorem State.withNext_drawn (s : State) (a : Action) : (s.withNext a).drawn = s.drawn := rfl
@[simp] theorem State.withNext_trace (s : State) (a : Action) : (s.withNext a).trace = s.trace := rfl
@[simp] theorem State.withNext_replies (s : State) (a : Action) : (s.withNext a).replies = s.replies := rfl

@[simp] theorem State.popAction_cfg (s : State) : s.popAction.cfg = s.cfg := by
  unfold State.popAction; split <;> rfl
@[simp] theorem State.popAction_blk (s : State) : s.popAction.blk = s.blk := by
  unfold State.popAction; split <;> rfl
@[simp] theorem State.popAction_trace (s : State) : s.popAction.trace = s.trace := by
  unfold State.popAction; split <;> rfl
@[simp] theorem State.popAction_replies (s : State) : s.popAction.replies = s.replies := by
  unfold State.popAction; split <;> rfl

/-- A pick just placed is the next, and taking it out gives the machine back. -/
@[simp] theorem State.nextAction_withNext (s : State) (a : Action) : (s.withNext a).nextAction = a := rfl
@[simp] theorem State.popAction_withNext (s : State) (a : Action) : (s.withNext a).popAction = s := rfl

/-- A step that leaves the block alone changes no interrupt level. -/
@[simp] theorem irqEvents_self (b : Block) : irqEvents b b = [] := by simp [irqEvents]

end Sys2Proof.Machine
end

