-- ==== Sys2Proof/Laws/Ops.lean ====
section
/-! SUPPORT. What each shared operation can do, said once: the recording operations, a consumption, the end of a host
access, the agents' moves, and a step of the machine. -/

namespace Sys2Proof.Machine

open Sys2Proof

/-! ### Recording -/

/-- A lost window counts once and sets SKIP, and nothing else. -/
theorem recordSkip_eq (b : Block) :
    recordSkip b = { b with skipCnt := b.skipCnt + 1, irqStat := b.irqStat ||| irqSkip } := rfl

/-- An overrun counts once and sets OVR, and nothing else. -/
theorem recordOverrun_eq (b : Block) :
    recordOverrun b = { b with ovrCnt := b.ovrCnt + 1, irqStat := b.irqStat ||| irqOvr } := rfl

/-- A dropped event counts once and sets DROP, and nothing else. -/
theorem recordDrop_eq (b : Block) :
    recordDrop b = { b with dropCnt := b.dropCnt + 1, irqStat := b.irqStat ||| irqDrop } := rfl

/-- The fatal path stops both paths, sets the sticky bit and the FATAL source, and nothing else. -/
theorem fatalPath_eq (b : Block) :
    fatalPath b = { b with fatal := true, acqRun := false, outRun := false, irqStat := b.irqStat ||| irqFatal } := rfl

/-- A consumption latches the front bank and the version in one slot, and no other slot changes. -/
theorem slotAt_consume (b : Block) (n k : Nat) :
    slotAt (consume b n) k =
      if k = n then { seenVer := b.version, latBank := b.front, latVer := b.version } else slotAt b k :=
  slotAt_setSlot b n k _

/-- A push queues the event if the queue is empty, and counts a drop if it is not. -/
theorem pushEvent_eq (b : Block) (i : Nat) :
    pushEvent b i =
      if b.evqValid then { b with dropCnt := b.dropCnt + 1, irqStat := b.irqStat ||| irqDrop }
      else { b with evqValid := true, evqEntry := { idx := BitVec.ofNat 8 i, cls := clsDiagDump },
                    irqStat := b.irqStat ||| irqEvq } := rfl

/-! ### The end of a host access -/

/-- An access whose meaning is one answer completes with it. -/
theorem completes_of_answer {i : Instr} {s : State} {b : Block} {r : Reply}
    (h : exec i s = .next (s.answer b r)) : Completes i s b r :=
  ⟨_, h, rfl, rfl, by simp, rfl, rfl, rfl⟩

/-- A command is an answer that also writes RESP. -/
theorem command_eq_answer (s : State) (b : Block) (o : BitVec 4) (c : BitVec 8) :
    s.command b o c = s.answer (respond b o c) (.write .okay) := rfl

/-- A meaning that is one command completes with RESP written. -/
theorem completes_of_command {i : Instr} {s : State} {b : Block} {o : BitVec 4} {c : BitVec 8}
    (h : exec i s = .next (s.command b o c)) : Completes i s (respond b o c) (.write .okay) :=
  completes_of_answer h

/-- Every access ends in one answer. -/
theorem exec_answers (i : Instr) (s : State) : ∃ b r, exec i s = .next (s.answer b r) := by
  cases i
  case wrCmd data =>
    simp only [exec, execWrCmd]
    split <;> exact ⟨_, _, rfl⟩
  case rdSubStat n =>
    simp only [exec, execRdSubStat, State.readSlot]
    split <;> exact ⟨_, _, rfl⟩
  case rdSubLatver n =>
    simp only [exec, execRdSubLatver, State.readSlot]
    split <;> exact ⟨_, _, rfl⟩
  case rdResSodd n k =>
    simp only [exec, execRdResSodd, State.readResult]
    split <;> exact ⟨_, _, rfl⟩
  case rdResS2 n k =>
    simp only [exec, execRdResS2, State.readResult]
    split <;> exact ⟨_, _, rfl⟩
  case rdResS4 n k =>
    simp only [exec, execRdResS4, State.readResult]
    split <;> exact ⟨_, _, rfl⟩
  case rdResS8 n k =>
    simp only [exec, execRdResS8, State.readResult]
    split <;> exact ⟨_, _, rfl⟩
  case busError w k d =>
    simp only [exec, execBusError]
    split <;> exact ⟨_, _, rfl⟩
  all_goals exact ⟨_, _, rfl⟩

/-! ### The agents' moves -/

/-- What the SAMPLE agent does: each running path takes its part of the tick. -/
theorem sampleMove_eq (c : Config) (x : Sample) (b : Block) :
    sampleMove c x b =
      .moved { (if b.acqRun then acquire c x b else b) with
               op := if b.outRun then ((if b.acqRun then acquire c x b else b).op + 1) % winLen c
                     else (if b.acqRun then acquire c x b else b).op }
        (if b.outRun then [streamEvent c b] else []) := by
  unfold sampleMove stream
  cases b.outRun <;> rfl

/-- What the ENGINE agent can do: one of its six kinds of step, none, or the fault. -/
theorem engineMove_cases (c : Config) (b : Block) :
    (b.engPhase = .idle ∧ b.pending = true ∧ engineMove c b = .moved (engStart b) []) ∨
    (b.engPhase = .idle ∧ b.pending = false ∧ engineMove c b = .stuck) ∨
    (b.engPhase = .load ∧ engineMove c b = .moved (engLoad c b) []) ∨
    (b.engPhase = .fft ∧ engineMove c b = engFft c b) ∨
    (b.engPhase = .mag ∧ engineMove c b = .moved (engMag c b) []) ∨
    (b.engPhase = .pub ∧ engineMove c b = .moved (engPub b) []) := by
  unfold engineMove
  cases b.engPhase <;> cases b.pending <;> simp

/-- What an FFT step can do: write the two outputs of its butterfly and advance, or overflow. -/
theorem engFft_cases (c : Config) (b : Block) {top bot : Nat} {w : CInt}
    (h : butterflyAt c b.engStage b.engQ = (top, bot, w)) :
    let y := butterfly c.twBits w (xAt b top).toInts (xAt b bot).toInts
    (y.1.fits = true ∧ y.2.fits = true ∧
      engFft c b = .moved (fftAdvance c (setX (setX b top y.1.toCplx) bot y.2.toCplx)) []) ∨
    ((y.1.fits && y.2.fits) = false ∧ engFft c b = .overflow) := by
  intro y
  unfold engFft
  simp only [h]
  rcases Bool.eq_false_or_eq_true (y.1.fits && y.2.fits) with hy | hy
  · left
    have := hy
    rw [Bool.and_eq_true] at this
    exact ⟨this.1, this.2, by rw [if_pos hy]⟩
  · right
    exact ⟨hy, if_neg (fun h' => by rw [hy] at h'; cases h')⟩

/-- What the RC agent can do: wake, test the request, emit one record, or nothing. -/
theorem rcMove_cases (b : Block) :
    (b.rcState = .waiting ∧ newFlag b 0 = true ∧ rcMove b = .moved { consume b 0 with rcState := .check } []) ∨
    (b.rcState = .waiting ∧ newFlag b 0 = false ∧ rcMove b = .stuck) ∨
    (b.rcState = .check ∧ rcMove b = .moved (rcCheck b) []) ∨
    (b.rcState = .emit ∧ b.rptOut = none ∧ rcMove b = .moved (rcEmit b) []) ∨
    (b.rcState = .emit ∧ b.rptOut ≠ none ∧ rcMove b = .stuck) := by
  unfold rcMove
  cases b.rcState <;> cases newFlag b 0 <;> cases b.rptOut <;> simp

/-- What the RPORT agent can do: take the record there is, or nothing. -/
theorem rportMove_cases (b : Block) :
    (∃ r, b.rptOut = some r ∧ rportMove b = .moved { b with rptOut := none } [.rpt r]) ∨
    (b.rptOut = none ∧ rportMove b = .stuck) := by
  unfold rportMove
  cases b.rptOut <;> simp

/-- What the DB step of one input does: its registers step, and an event is pushed if its delay expires. -/
theorem dbInputStep_cases (c : Config) (pins : BitVec 16) (te : Bool) (b : Block) (i : Nat) :
    let r := debounce c.dbDelay (syncShift (inputAt b i) (pinAsserted c pins i)) te
    (r.2 = false ∧ dbInputStep c pins te b i = setInput b i r.1) ∨
    (r.2 = true ∧ dbInputStep c pins te b i = pushEvent (setInput b i r.1) i) := by
  intro r
  unfold dbInputStep
  rcases Bool.eq_false_or_eq_true r.2 with h | h
  · exact .inr ⟨h, if_pos h⟩
  · exact .inl ⟨h, if_neg (by simp [r, h])⟩

/-- What a pick of an agent other than HOST can come to on the machine. -/
theorem afterMove_cases {s t : State} {m : Move} (h : s.afterMove m = .next t) :
    (∃ b evs, m = .moved b evs ∧ t = s.settle b evs) ∨ (m = .stuck ∧ t = s) := by
  cases m with
  | moved b evs => left; exact ⟨b, evs, rfl, by cases h; rfl⟩
  | stuck => right; exact ⟨rfl, by cases h; rfl⟩
  | overflow => cases h

/-! ### A step -/

/-- The agent step of an action other than a host access. -/
theorem runAction_of_agent {a : Action} (ha : ∀ r, a ≠ .host r) (s : State) :
    runAction a s = s.afterMove (agentMove s.cfg a s.blk) := by
  cases a with
  | host r => exact absurd rfl (ha r)
  | sample x => rfl
  | engine => rfl
  | rc => rfl
  | rport => rfl
  | db pins te => rfl
  | reset => rfl

/-- In a valid configuration a step runs the picked action. -/
theorem step_of_valid {s : State} (h : configValid s.cfg = true) : step s = runAction s.nextAction s.popAction := by
  unfold step runValid
  rw [h]

/-- What a step that answers a next state can be: a host access that ends in one answer, a move of another agent, or a
pick of an agent that has no enabled step. -/
theorem step_cases {s t : State} (h : step s = .next t) :
    configValid s.cfg = true ∧
    ((∃ r b rep, s.nextAction = .host r ∧ exec (decode r) s.popAction = .next t ∧ t = s.popAction.answer b rep) ∨
     ((∀ r, s.nextAction ≠ .host r) ∧
       ((∃ b evs, agentMove s.cfg s.nextAction s.blk = .moved b evs ∧ t = s.popAction.settle b evs) ∨
        (agentMove s.cfg s.nextAction s.blk = .stuck ∧ t = s.popAction)))) := by
  rcases Bool.eq_false_or_eq_true (configValid s.cfg) with hv | hv
  · refine ⟨hv, ?_⟩
    rw [step_of_valid hv] at h
    cases ha : s.nextAction with
    | host r =>
      left
      rw [ha] at h
      obtain ⟨b, rep, hb⟩ := exec_answers (decode r) s.popAction
      have h' : exec (decode r) s.popAction = .next t := h
      refine ⟨r, b, rep, rfl, h', ?_⟩
      rw [hb] at h'
      cases h'
      rfl
    | sample x =>
      right
      rw [ha, runAction_of_agent (by simp)] at h
      exact ⟨by simp, by simpa using afterMove_cases h⟩
    | engine =>
      right
      rw [ha, runAction_of_agent (by simp)] at h
      exact ⟨by simp, by simpa using afterMove_cases h⟩
    | rc =>
      right
      rw [ha, runAction_of_agent (by simp)] at h
      exact ⟨by simp, by simpa using afterMove_cases h⟩
    | rport =>
      right
      rw [ha, runAction_of_agent (by simp)] at h
      exact ⟨by simp, by simpa using afterMove_cases h⟩
    | db pins te =>
      right
      rw [ha, runAction_of_agent (by simp)] at h
      exact ⟨by simp, by simpa using afterMove_cases h⟩
    | reset =>
      right
      rw [ha, runAction_of_agent (by simp)] at h
      exact ⟨by simp, by simpa using afterMove_cases h⟩
  · unfold step runValid at h
    rw [hv] at h
    cases h

/-- An agent's enabled step, picked next in a valid configuration, moves the machine. -/
theorem moves_of_agentMove {s : State} {a : Action} {b : Block} {evs : List Event} (hv : configValid s.cfg = true)
    (ha : ∀ r, a ≠ .host r) (h : agentMove s.cfg a s.blk = .moved b evs) : Moves a s b evs := by
  refine ⟨s.settle b evs, ?_, rfl, rfl, rfl, rfl, rfl, rfl⟩
  rw [step_of_valid (by simpa using hv), State.nextAction_withNext, State.popAction_withNext, runAction_of_agent ha, h]
  rfl

/-- A disabled agent, picked next in a valid configuration, leaves the machine as it is. -/
theorem moves_of_stuck {s : State} {a : Action} (hv : configValid s.cfg = true) (ha : ∀ r, a ≠ .host r)
    (h : agentMove s.cfg a s.blk = .stuck) : Moves a s s.blk [] := by
  refine ⟨s, ?_, rfl, rfl, by simp, rfl, rfl, rfl⟩
  rw [step_of_valid (by simpa using hv), State.nextAction_withNext, State.popAction_withNext, runAction_of_agent ha, h]
  rfl

end Sys2Proof.Machine
end

