-- ==== Sys2Proof/Laws/PerInstr.lean ====
section
/-! SUPPORT. What is said of every instruction, one lemma for each constructor: an instruction of a CMD row is encoded
as the word of its command, any other as a bus access (spec/30_encoding.md R80, R85). -/

namespace Sys2Proof.Laws.FormatOfRow

open Sys2Proof Sys2Proof.Machine

/-- The request of an instruction has the format of its row of spec/opcode_table.json. -/
def Statement (i : Instr) : Prop :=
  match asCommand i with
  | some c => encode i = Request.command (encodeCommand c) ∨ ∃ d, encode i = writeAt 0 d ∧ c = decodeCommand d
  | none => ∃ width key data, encode i = Request.access width key data

theorem nop : Statement (.nop) := Or.inl rfl
theorem acqStart : Statement (.acqStart) := Or.inl rfl
theorem outStart : Statement (.outStart) := Or.inl rfl
theorem stop : Statement (.stop) := Or.inl rfl
theorem selectWave (wave : BitVec 8) : Statement (.selectWave wave) := Or.inl rfl
theorem armReport (start : BinWord) (count : BinWord) : Statement (.armReport start count) := Or.inl rfl
theorem subAck (sub : BitVec 4) : Statement (.subAck sub) := Or.inl rfl
theorem illegalReservedBits (w : Word) : Statement (.illegalReservedBits w) := Or.inl rfl
theorem illegalOp7 (any : BitVec 28) : Statement (.illegalOp7 any) := Or.inl rfl
theorem illegalOp8F (op : BitVec 4) (any : BitVec 28) : Statement (.illegalOp8F op any) := Or.inl rfl
theorem wrCmd (data : Word) : Statement (.wrCmd data) := Or.inr ⟨_, rfl, rfl⟩
theorem rdCmd : Statement (.rdCmd) := Exists.intro _ ⟨_, _, rfl⟩
theorem rdResp : Statement (.rdResp) := Exists.intro _ ⟨_, _, rfl⟩
theorem rdStatus : Statement (.rdStatus) := Exists.intro _ ⟨_, _, rfl⟩
theorem rdIrqStat : Statement (.rdIrqStat) := Exists.intro _ ⟨_, _, rfl⟩
theorem wrIrqStat (data : Word) : Statement (.wrIrqStat data) := Exists.intro _ ⟨_, _, rfl⟩
theorem rdIrqEn : Statement (.rdIrqEn) := Exists.intro _ ⟨_, _, rfl⟩
theorem wrIrqEn (data : Word) : Statement (.wrIrqEn data) := Exists.intro _ ⟨_, _, rfl⟩
theorem rdVersion : Statement (.rdVersion) := Exists.intro _ ⟨_, _, rfl⟩
theorem rdWincnt : Statement (.rdWincnt) := Exists.intro _ ⟨_, _, rfl⟩
theorem rdOvrCnt : Statement (.rdOvrCnt) := Exists.intro _ ⟨_, _, rfl⟩
theorem rdSkipCnt : Statement (.rdSkipCnt) := Exists.intro _ ⟨_, _, rfl⟩
theorem rdDropCnt : Statement (.rdDropCnt) := Exists.intro _ ⟨_, _, rfl⟩
theorem rdEvqPop : Statement (.rdEvqPop) := Exists.intro _ ⟨_, _, rfl⟩
theorem rdReportReq : Statement (.rdReportReq) := Exists.intro _ ⟨_, _, rfl⟩
theorem rdRateDiv : Statement (.rdRateDiv) := Exists.intro _ ⟨_, _, rfl⟩
theorem wrRateDiv (data : Word) : Statement (.wrRateDiv data) := Exists.intro _ ⟨_, _, rfl⟩
theorem rdId : Statement (.rdId) := Exists.intro _ ⟨_, _, rfl⟩
theorem rdDbState : Statement (.rdDbState) := Exists.intro _ ⟨_, _, rfl⟩
theorem rdSubStat (n : BitVec 4) : Statement (.rdSubStat n) := Exists.intro _ ⟨_, _, rfl⟩
theorem rdSubLatver (n : BitVec 4) : Statement (.rdSubLatver n) := Exists.intro _ ⟨_, _, rfl⟩
theorem rdResSodd (n : BitVec 4) (k : BinWord) : Statement (.rdResSodd n k) := Exists.intro _ ⟨_, _, rfl⟩
theorem rdResS2 (n : BitVec 4) (k : BinWord) : Statement (.rdResS2 n k) := Exists.intro _ ⟨_, _, rfl⟩
theorem rdResS4 (n : BitVec 4) (k : BinWord) : Statement (.rdResS4 n k) := Exists.intro _ ⟨_, _, rfl⟩
theorem rdResS8 (n : BitVec 4) (k : BinWord) : Statement (.rdResS8 n k) := Exists.intro _ ⟨_, _, rfl⟩
theorem busError (width : Nat) (key : AccessKey) (data : Word) : Statement (.busError width key data) := Exists.intro _ ⟨_, _, rfl⟩

end Sys2Proof.Laws.FormatOfRow
end

