-- ==== Sys2Proof/Laws/Pseudo.lean ====
section
/-! SUPPORT. What a run of steps and a pseudo-instruction performed on the machine can do. -/

namespace Sys2Proof.Machine

open Sys2Proof

@[simp] theorem runActions_nil (s : State) : runActions [] s = .next s := rfl

/-- A run of steps that answers a next state took its first step and then the rest. -/
theorem runActions_cons_next {a : Action} {as : List Action} {s u : State} (h : runActions (a :: as) s = .next u) :
    ∃ t, step (s.withNext a) = .next t ∧ runActions as t = .next u := by
  simp only [runActions] at h
  split at h
  · exact ⟨_, ‹_›, h⟩
  · cases h
  · cases h

/-- What every one of the steps keeps, a run of them keeps. -/
theorem runActions_keeps {P : State → Prop} {as : List Action}
    (hstep : ∀ a ∈ as, ∀ s t, P s → step (s.withNext a) = .next t → P t) {s u : State} (hs : P s)
    (h : runActions as s = .next u) : P u := by
  induction as generalizing s with
  | nil => cases h; exact hs
  | cons a as ih =>
    obtain ⟨t, ht, hu⟩ := runActions_cons_next h
    exact ih (fun a' ha' => hstep a' (List.mem_cons_of_mem _ ha'))
      (hstep a List.mem_cons_self s t hs ht) hu

@[simp] theorem perform_nil (p : Pseudo) (seen : List Reply) (s : State) :
    perform p [] seen s = .next { done := (nextAccess p seen).isNone, seen := seen, machine := s } := rfl

/-- A host that gets on with a pseudo-instruction is done with it, or makes its next access, lets the other agents take
their steps, and goes on with the reply. -/
theorem perform_cons_next {p : Pseudo} {gap : List Action} {gaps : List (List Action)} {seen : List Reply} {s : State}
    {u : HostRun} (h : perform p (gap :: gaps) seen s = .next u) :
    (nextAccess p seen = none ∧ u = { done := true, seen := seen, machine := s }) ∨
    ∃ r t v, nextAccess p seen = some r ∧ step (s.withNext (.host r)) = .next t ∧ runActions gap t = .next v ∧
      perform p gaps (seen ++ t.replies.drop s.replies.length) v = .next u := by
  simp only [perform] at h
  split at h
  · cases h; exact .inl ⟨‹_›, rfl⟩
  · split at h
    · split at h
      · exact .inr ⟨_, _, _, ‹_›, ‹_›, ‹_›, h⟩
      · cases h
      · cases h
    · cases h
    · cases h

end Sys2Proof.Machine
end

