-- ==== Sys2Proof/Tests/Slice0.lean ====
section
/-! SUPPORT. Tests. Expected values are those of spec/95_test_vectors.md (its vector names are in the comments) or are
worked out by hand from the rule named. The `test_witness_` theorems show states and operands that meet the hypotheses of
the statements in Certificates/Slice0/Obligations.lean. -/

namespace Sys2Proof.Tests

open Sys2Proof Sys2Proof.Machine

/-! ### Helpers -/

/-- ROM-T of spec/95_test_vectors.md, its first eight words. -/
def romT : List (List Sample) :=
  [(List.range 8).map (fun k => BitVec.ofNat 16 (100 + k)), (List.range 8).map (fun k => BitVec.ofNat 16 (200 + k))]

/-- CFG-D with ROM-T. -/
def cfgD : Config := { Config.hardware with initFail := false, base := 0, waveRom := romT }

/-- CFG-8 with ROM-T. -/
def cfg8 : Config := { cfgD with lgN := 3 }

/-- A machine of configuration `c` with block `b` and no level change outstanding. -/
def at_ (c : Config) (b : Block) : State := { State.boot c with blk := b, trace := [.irq (irqLevel b)] }

/-- The machine one step after `a` is picked, if it has a next state. -/
def after (a : Action) (s : State) : Option State :=
  match step (s.withNext a) with
  | .next t => some t
  | .fault _ => none
  | .refused _ => none

/-- The block one step after `a` is picked, seen through `f`. -/
def seen {α : Type} (f : Block → α) (a : Action) (s : State) : Option α := (after a s).map (fun t => f t.blk)

/-- The command step of the word `w`. -/
def cmd (w : Word) : Action := .host (writeAt 0 w)

/-- What the access `r` returns. -/
def reply (r : Request) (s : State) : Option Reply := (after (.host r) s).bind (fun t => t.replies.getLast?)

/-- What a read of byte offset `addr` returns. -/
def rd (addr : Nat) (s : State) : Option Reply := reply (readAt addr) s

/-- The events of the step of `a`. -/
def events (a : Action) (s : State) : Option (List Event) := (after a s).map (fun t => t.trace.drop s.trace.length)

/-! ### WellFormed: each check refuses an ill-formed term -/

/-- R83: a word without a reserved bit set is not ILLEGAL_RESERVED_BITS, nor one of opcode 0x5 or 0x7. -/
theorem test_wf_illegalReservedBits : Instr.wf (.illegalReservedBits 0x40000001) = false ∧
    Instr.wf (.illegalReservedBits 0x5FFFFFFF) = false ∧ Instr.wf (.illegalReservedBits 0x70000001) = false := by decide

/-- R84: opcode 0x7 is not in the row of 0x8 to 0xF. -/
theorem test_wf_illegalOp8F : Instr.wf (.illegalOp8F 0x7 0) = false := by decide

/-- R85: the four RES rows are told apart by the lowest set bit of s, and slot 0 is in none. -/
theorem test_wf_results : Instr.wf (.rdResSodd 2 0) = false ∧ Instr.wf (.rdResS2 4 0) = false ∧
    Instr.wf (.rdResS4 8 0) = false ∧ Instr.wf (.rdResS8 0 0) = false := by decide

/-- R120: an access that another row matches is no BUS_ERROR. -/
theorem test_wf_busError : Instr.wf (.busError 32 0x000034 0) = false ∧ Instr.wf (.busError 32 0x100010 0) = false ∧
    Instr.wf (.busError 32 0x010000 0) = false := by decide

/-! ### Decoding: words written out from spec/30_encoding.md and spec/opcode_table.json -/

/-- The assigned commands (R82). -/
theorem test_decode_commands :
    decodeTableWord 32 0b00000000000000000000000000000000 = some .nop ∧
    decodeTableWord 32 0b00010000000000000000000000000000 = some .acqStart ∧
    decodeTableWord 32 0b00100000000000000000000000000000 = some .outStart ∧
    decodeTableWord 32 0b00110000000000000000000000000000 = some .stop ∧
    decodeTableWord 32 0b01000000000000000000000010000001 = some (.selectWave 0x81) ∧
    decodeTableWord 32 0b01011000000000000110000000000101 = some (.armReport 0x2001 0x2005) ∧
    decodeTableWord 32 0b01100000000000000000000000001001 = some (.subAck 9) := by decide

/-- The illegal commands (R83, R84). -/
theorem test_decode_illegal :
    decodeTableWord 32 0b01100000000000000000000000010000 = some (.illegalReservedBits 0x60000010) ∧
    decodeTableWord 32 0b00000000000000000000000000000001 = some (.illegalReservedBits 0x00000001) ∧
    decodeTableWord 32 0b01111000000000000000000000000001 = some (.illegalOp7 0x8000001) ∧
    decodeTableWord 32 0b10000000000000000000000000000000 = some (.illegalOp8F 0x8 0) ∧
    decodeTableWord 32 0b11110000000000000000000000000011 = some (.illegalOp8F 0xF 3) := by decide

/-- The reads of the fixed registers (R48, R85): the access key is `{W, addr[19:0]}`. -/
theorem test_decode_reads :
    decodeTableWord 24 0x000000 = some .rdCmd ∧ decodeTableWord 24 0x000004 = some .rdResp ∧
    decodeTableWord 24 0x000008 = some .rdStatus ∧ decodeTableWord 24 0x00000C = some .rdIrqStat ∧
    decodeTableWord 24 0x000010 = some .rdIrqEn ∧ decodeTableWord 24 0x000014 = some .rdVersion ∧
    decodeTableWord 24 0x000018 = some .rdWincnt ∧ decodeTableWord 24 0x00001C = some .rdOvrCnt ∧
    decodeTableWord 24 0x000020 = some .rdSkipCnt ∧ decodeTableWord 24 0x000024 = some .rdDropCnt ∧
    decodeTableWord 24 0x000028 = some .rdEvqPop ∧ decodeTableWord 24 0x00002C = some .rdReportReq ∧
    decodeTableWord 24 0x000030 = some .rdRateDiv ∧ decodeTableWord 24 0x000034 = some .rdId ∧
    decodeTableWord 24 0x000038 = some .rdDbState := by decide

/-- The writes (R64, R85), their data word above the key. -/
theorem test_decode_writes :
    decodeTableWord 24 0x100000 = some (.wrCmd 0) ∧
    decodeTableWord 56 0x5000C004100000 = some (.wrCmd 0x5000C004) ∧
    decodeTableWord 56 0x0000000310000C = some (.wrIrqStat 3) ∧
    decodeTableWord 56 0xFFFFFFFF100010 = some (.wrIrqEn 0xFFFFFFFF) ∧
    decodeTableWord 56 0x000003E7100030 = some (.wrRateDiv 999) := by decide

/-- The subscriber registers and the result windows (R85): s in addr[6:3], and s in addr[19:16] with i in addr[15:2]. -/
theorem test_decode_slots :
    decodeTableWord 24 0b000000000000000011111000 = some (.rdSubStat 15) ∧
    decodeTableWord 24 0b000000000000000010001100 = some (.rdSubLatver 1) ∧
    decodeTableWord 24 0b000000111111111111111100 = some (.rdResSodd 3 0x3FFF) ∧
    decodeTableWord 24 0b000001100000000000000100 = some (.rdResS2 6 1) ∧
    decodeTableWord 24 0b000011000000000000001000 = some (.rdResS4 12 2) ∧
    decodeTableWord 24 0b000010001000000000000000 = some (.rdResS8 8 0x2000) := by decide

/-- What no other row matches (R120): a gap, an unaligned address, a write to a read-only register, another width. -/
theorem test_decode_busError :
    decodeTableWord 24 0x00003C = some (.busError 32 0x00003C 0) ∧
    decodeTableWord 24 0x000002 = some (.busError 32 0x000002 0) ∧
    decodeTableWord 24 0x100004 = some (.busError 32 0x100004 0) ∧
    decode (.access 8 0x000034 0) = .busError 8 0x000034 0 := by decide

/-- The encoder writes the words of spec/30_encoding.md R95 (CV5, CV9, CV18). -/
theorem test_encode : encode (.selectWave 1) = .command 0x40000001 ∧ encode (.armReport 3 4) = .command 0x5000C004 ∧
    encode (.subAck 1) = .command 0x60000001 ∧ encode (.rdResSodd 1 127) = .access 32 0x0101FC 0 ∧
    encode (.rdSubLatver 1) = .access 32 0x00008C 0 := by decide

/-- An instruction placed by the host's interface is the next step's, and reads what it should: ID of this hardware (RV9). -/
theorem test_fetch : (match step (State.reset.withFetchWord 24 0x34) with
    | .next t => t.replies | .fault _ => [] | .refused _ => []) = [.read 0x0E0024C8 .okay] := by decide

/-! ### Commands (vectors CV) -/

theorem test_nop : seen respWord (cmd 0x00000000) (at_ cfgD { Block.atReset with respCode := 4, respOp := 1 }) = some 0 := by
  decide

theorem test_acqStart : seen (fun b => (respWord b, b.acqRun, b.wp)) (cmd 0x10000000)
    (at_ cfgD { Block.atReset with wp := 9 }) = some (0x100, true, 0) := by decide

/-- CV31, EV5. -/
theorem test_acqStart_initFail : seen (fun b => (respWord b, statusWord cfg8 b, b.irqStat)) (cmd 0x10000000)
    (at_ { cfg8 with initFail := true } Block.atReset) = some (0x104, 0x40, 0x100) := by decide

/-- CV27. -/
theorem test_outStart_running : seen (fun b => (respWord b, b.op)) (cmd 0x20000000)
    (at_ cfgD { Block.atReset with outRun := true, op := 37 }) = some (0x200, 37) := by decide

theorem test_outStart : seen (fun b => (respWord b, b.outRun, b.op)) (cmd 0x20000000)
    (at_ cfgD { Block.atReset with op := 37 }) = some (0x200, true, 0) := by decide

/-- CV30. -/
theorem test_stop : seen (fun b => (respWord b, b.acqRun, b.outRun, b.fatal)) (cmd 0x30000000)
    (at_ cfgD { Block.atReset with acqRun := true, outRun := true, fatal := true }) =
      some (0x300, false, false, true) := by decide

/-- CV5 and CV32. -/
theorem test_selectWave : seen (fun b => (respWord b, b.activeWave, b.op)) (cmd 0x40000001)
    (at_ cfgD { Block.atReset with outRun := true, op := 37 }) = some (0x400, 1, 0) := by decide

/-- CV6. -/
theorem test_selectWave_bad : seen (fun b => (respWord b, b.activeWave, b.op)) (cmd 0x40000002)
    (at_ cfgD { Block.atReset with op := 37 }) = some (0x403, 0, 37) := by decide

/-- CV11, CV13: the whole spectrum, the last bin. -/
theorem test_armReport : seen (fun b => (respWord b, reportReqWord b)) (cmd 0x50000080) (at_ cfgD Block.atReset) =
      some (0x500, 0x80000080) ∧
    seen (fun b => (respWord b, reportReqWord b)) (cmd 0x501FC001) (at_ cfgD Block.atReset) =
      some (0x500, 0x801FC001) := by decide

/-- CV10, CV12, CV14, CV16. -/
theorem test_armReport_range :
    [0x50000000, 0x50000081, 0x50200001, 0x5FFFFFFF].map (fun w =>
      seen (fun b => (respWord b, reportReqWord b)) (cmd w)
        (at_ cfgD { Block.atReset with armed := true, reqStart := 3, reqCount := 4 })) =
      List.replicate 4 (some (0x502, 0x8000C004)) := by decide

/-- RV34: version 5 in bank 1. -/
theorem test_subAck : seen (fun b => (respWord b, subStatWord b 1, (slotAt b 1).latVer)) (cmd 0x60000001)
    (at_ cfgD { Block.atReset with version := 5, front := .b1, bankVer := { b0 := 4, b1 := 5 } }) =
      some (0x600, 6, 5) := by decide

/-- CV17, CV19, CV20. -/
theorem test_subAck_bad : [0x60000000, 0x60000002, 0x6000000F].map (fun w =>
    seen (fun b => (respWord b, b.slots)) (cmd w) (at_ cfgD Block.atReset)) =
      List.replicate 3 (some (0x605, { cells := [] })) := by decide

/-- CV8, CV22, CV24, CV25. -/
theorem test_illegal : [0x40000100, 0x00000001, 0x70000000, 0xFFFFFFFF].map (fun w =>
    seen (fun b => (respWord b, b.acqRun)) (cmd w) (at_ cfgD { Block.atReset with acqRun := true })) =
      [some (0x401, true), some (0x001, true), some (0x701, true), some (0xF01, true)] := by decide

/-! ### Register accesses (vectors RV) -/

/-- RV1 to RV8, RV10. -/
theorem test_reads_at_reset : [0x00, 0x04, 0x08, 0x0C, 0x10, 0x14, 0x18, 0x1C, 0x20, 0x24, 0x28, 0x2C, 0x30, 0x38].all
    (fun addr => rd addr (State.boot cfgD) == some (.read 0 .okay)) = true := by decide

/-- RV11 to RV13, RV18. -/
theorem test_slot_reads_at_reset : rd 0x80 (State.boot cfgD) = some (.read 2 .okay) ∧
    rd 0x8C (State.boot cfgD) = some (.read 0 .okay) ∧ rd 0x101FC (State.boot cfgD) = some (.read 0 .okay) ∧
    rd 0x90 (State.boot cfgD) = some (.read 0 .slverr) ∧ rd 0x10200 (State.boot cfgD) = some (.read 0 .slverr) ∧
    rd 0x20000 (State.boot cfgD) = some (.read 0 .slverr) := by decide

/-- RV14, RV19, RV26, RV28. -/
theorem test_busError : rd 0x3C (State.boot cfgD) = some (.read 0 .slverr) ∧
    rd 0x02 (State.boot cfgD) = some (.read 0 .slverr) ∧
    reply (writeAt 0x04 1) (State.boot cfgD) = some (.write .slverr) ∧
    reply (writeAt 0x02 0) (State.boot cfgD) = some (.write .slverr) ∧
    reply (.access 16 0x000034 0) (State.boot cfgD) = some (.read 0 .slverr) := by decide

/-- RV20, RV22. -/
theorem test_wrIrqStat :
    seen (·.irqStat) (.host (writeAt 0x0C 0x001)) (at_ cfgD { Block.atReset with irqStat := 3 }) = some 2 ∧
    seen (·.irqStat) (.host (writeAt 0x0C 0xFFFFFE00)) (at_ cfgD { Block.atReset with irqStat := 0x1FF }) =
      some 0x1FF := by decide

/-- RV23, RV24. -/
theorem test_wrIrqEn : seen irqEnWord (.host (writeAt 0x10 0xFFFFFFFF)) (State.boot cfgD) = some 0x1FF ∧
    events (.host (writeAt 0x10 2)) (at_ cfgD { Block.atReset with irqStat := 2 }) = some [.irq true] := by decide

/-- RV25. -/
theorem test_wrRateDiv : seen (·.rateDiv) (.host (writeAt 0x30 999)) (State.boot cfgD) = some 999 := by decide

/-- The counters and the version, each read at its own address (R126), and RATE_DIV (R127). -/
theorem test_counters : [0x14, 0x18, 0x1C, 0x20, 0x24, 0x30].map (fun addr => rd addr (at_ cfgD { Block.atReset with
      version := 1, wincnt := 2, ovrCnt := 3, skipCnt := 4, dropCnt := 5, rateDiv := 6 })) =
    [1, 2, 3, 4, 5, 6].map (fun v => some (.read v .okay)) := by decide

/-- RV29. -/
theorem test_status : rd 0x08 (at_ cfgD { Block.atReset with
    acqRun := true, outRun := true, armed := true, wp := 300, activeWave := 1 }) = some (.read 0x012C0193 .okay) := by decide

/-- RV31. -/
theorem test_status_report : rd 0x08 (at_ cfg8 { Block.atReset with
    rptOut := some (.data 0 0), rcState := .emit, acqRun := true, wp := 8 }) = some (.read 0x800800A1 .okay) := by decide

/-- RV32, EV8: the pop returns the entry and leaves the sticky bit. -/
theorem test_evqPop : rd 0x28 (at_ cfgD { Block.atReset with evqValid := true, evqEntry := { idx := 0, cls := 1 } }) =
      some (.read 0x80000001 .okay) ∧
    seen (fun b => (b.evqValid, b.irqStat)) (.host (readAt 0x28))
      (at_ cfgD { Block.atReset with evqValid := true, irqStat := 4, irqEn := 4 }) = some (false, 4) := by decide

/-- RV33. -/
theorem test_dbState : rd 0x38 (at_ { cfgD with nIn := 2 } { Block.atReset with
    inputs := { cells := [(0, { DbInput.atReset with s2 := true, st := .deb }),
                          (1, { DbInput.atReset with s2 := true, st := .deb })] } }) =
      some (.read 0x00030003 .okay) := by decide

/-- RV35, and IRQ_STAT, IRQ_EN, RESP at their own addresses. -/
theorem test_fields : [0x2C, 0x0C, 0x10, 0x04, 0x00].map (fun addr => rd addr (at_ cfgD { Block.atReset with
      reqStart := 3, reqCount := 4, irqStat := 0x101, irqEn := 0x082, respOp := 0xF, respCode := 1 })) =
    [0x0000C004, 0x101, 0x082, 0xF01, 0].map (fun v => some (.read v .okay)) := by decide

/-- R134: RES(s, i) reads the bank slot s latched, unhalved, for each of the four rows of s. -/
theorem test_results : [1, 2, 4, 8].map (fun s => rd (0x10000 * s + 4) (at_ { cfgD with nSub := 9 } { Block.atReset with
      rb := { b0 := { cells := [(1, 7)] }, b1 := { cells := [(0, 9), (1, 65535)] } }
      slots := { cells := [1, 2, 4, 8].map (fun n => (n, { Latch.atReset with latBank := .b1 })) } })) =
    List.replicate 4 (some (.read 65535 .okay)) := by decide

/-! ### SAMPLE (vectors AV) -/

/-- AV2: the tick that completes bank 0. -/
theorem test_sample_completes : seen (fun b => (sbAt b 7, b.bankOk, b.cbank, b.pending, b.wp)) (.sample 5)
      (at_ cfg8 { Block.atReset with acqRun := true, wp := 7 }) =
        some (5, { b0 := true, b1 := false }, .b0, true, 8) ∧
    seen (fun b => (b.wincnt, b.irqStat)) (.sample 5) (at_ cfg8 { Block.atReset with acqRun := true, wp := 7 }) =
      some (1, 1) := by decide

/-- AV7: the first write into the bank being loaded aborts the load. -/
theorem test_sample_aborts : seen (fun b => (b.engPhase, b.skipCnt, statusWord cfg8 b)) (.sample 1)
    (at_ cfg8 { Block.atReset with acqRun := true, wp := 8, pending := true, engPhase := .load, ldBank := .b1,
                                   skipCnt := 1, bankOk := { b0 := true, b1 := true } }) =
      some (.idle, 2, 0x00090089) := by decide

/-- EV6: WIN, OVR and SKIP by one tick, and one IRQ event. -/
theorem test_sample_three_sources :
    seen (·.irqStat) (.sample 0) (at_ cfg8 { Block.atReset with
      acqRun := true, wp := 15, pending := true, engPhase := .fft, irqEn := 0x018 }) = some 0x019 ∧
    events (.sample 0) (at_ cfg8 { Block.atReset with
      acqRun := true, wp := 15, pending := true, engPhase := .fft, irqEn := 0x018 }) = some [.irq true] := by decide

/-- AV12, AV10. -/
theorem test_stream : events (.sample 0) (at_ cfg8 { Block.atReset with outRun := true, op := 7 }) = some [.out 107] ∧
    seen (·.op) (.sample 0) (at_ cfg8 { Block.atReset with outRun := true, op := 7 }) = some 0 ∧
    seen id (.sample 9) (State.boot cfg8) = some Block.atReset := by decide

/-! ### ENGINE (vectors OV, T) -/

/-- The twiddle ROM at N = 8 and N = 16 (section 5.1). -/
theorem test_twiddle_small :
    (List.range 4).map (twiddle cfg8) = [⟨32768, 0⟩, ⟨23170, -23170⟩, ⟨0, -32768⟩, ⟨-23170, -23170⟩] ∧
    (List.range 8).map (twiddle { cfg8 with lgN := 4 }) = [⟨32768, 0⟩, ⟨30274, -12540⟩, ⟨23170, -23170⟩, ⟨12540, -30274⟩,
      ⟨0, -32768⟩, ⟨-12540, -30274⟩, ⟨-23170, -23170⟩, ⟨-30274, -12540⟩] := by decide +kernel

/-- The real parts of the first quarter of the N = 256 table of spec/43_transform.md R171. -/
def quarterCos : List Int :=
  [32768, 32758, 32729, 32679, 32610, 32522, 32413, 32286, 32138, 31972, 31786, 31581, 31357, 31114, 30853, 30572] ++
  [30274, 29957, 29622, 29269, 28899, 28511, 28106, 27684, 27246, 26791, 26320, 25833, 25330, 24812, 24279, 23732] ++
  [23170, 22595, 22006, 21403, 20788, 20160, 19520, 18868, 18205, 17531, 16846, 16151, 15447, 14733, 14010, 13279] ++
  [12540, 11793, 11039, 10279, 9512, 8740, 7962, 7180, 6393, 5602, 4808, 4011, 3212, 2411, 1608, 804]

/-- The N = 256 table in full: in the first quarter the imaginary parts are the negated real parts read backwards, in the
second the real parts are those imaginary parts and the imaginary parts the negated real parts of the first. -/
theorem test_twiddle_256 :
    (List.range 128).map (twiddle cfgD) =
      quarterCos.zipWith (fun c s => (⟨c, -s⟩ : CInt)) (0 :: quarterCos.tail.reverse) ++
      (0 :: quarterCos.tail.reverse).zipWith (fun s c => (⟨-s, -c⟩ : CInt)) quarterCos := by decide +kernel

/-- OV1 to OV3. -/
theorem test_cmul : cmul 15 ⟨23170, -23170⟩ ⟨65504, 0⟩ = ⟨46317, -46317⟩ ∧ cmul 15 ⟨32768, 0⟩ ⟨-7, 12345⟩ = ⟨-7, 12345⟩ ∧
    cmul 15 ⟨0, -32768⟩ ⟨99, 0⟩ = ⟨0, -99⟩ := by decide

/-- OV5 to OV8. -/
theorem test_mag_scale : mag ⟨4191952, -28⟩ = 4191952 ∧ mag ⟨-32768, 79108⟩ = 85626 ∧ scale cfgD 4191952 = 32749 ∧
    scale cfg8 130986 = 32746 := by decide +kernel

/-- T5 and T6: the whole transform. -/
theorem test_transform :
    (List.range 4).map (transform cfg8 (fun i => ([4095, 3495, 2048, 601, 1, 601, 2048, 3495] : List Sample).getD i 0)) =
      [65536, 32746, 0, 5] ∧
    (List.range 4).map (transform cfg8 (fun i => ([0, 512, 1024, 1536, 2048, 2560, 3072, 3584] : List Sample).getD i 0)) =
      [57344, 21406, 11585, 8866] := by decide +kernel

/-- Section 5.4: LOAD puts sample 1 at X[4], shifted by P_G. -/
theorem test_load : seen (fun b => (xAt b 4, xAt b 1, b.engI)) .engine (at_ cfg8 { Block.atReset with
    engPhase := .load, engI := 1, sb := { cells := [(1, 3495)] } }) = some (⟨55920, 0⟩, ⟨0, 0⟩, 2) := by decide

/-- Section 5.4: stage 3, butterfly q = 1. -/
theorem test_fft : seen (fun b => (xAt b 1, xAt b 5, b.engQ)) .engine (at_ cfg8 { Block.atReset with
    engPhase := .fft, engStage := 3, engQ := 1, x := { cells := [(1, ⟨65504, 0⟩), (5, ⟨46304, 46304⟩)] } }) =
      some (⟨130986, 0⟩, ⟨22, 0⟩, 2) := by decide +kernel

/-- PV4: the last butterfly stamps the back bank and enters MAG. -/
theorem test_fft_done : seen (fun b => (b.engPhase, b.engI, b.bankVer)) .engine (at_ cfg8 { Block.atReset with
    engPhase := .fft, engStage := 3, engQ := 3, version := 2, bankVer := { b0 := 2, b1 := 1 } }) =
      some (.mag, 0, { b0 := 2, b1 := 3 }) := by decide +kernel

/-- T6: MAG of bin 1 into the back bank; and PUB (PV1). -/
theorem test_mag_pub :
    seen (fun b => (rbAt b .b1 1, rbAt b .b0 1)) .engine (at_ cfg8 { Block.atReset with
      engPhase := .mag, engI := 1, x := { cells := [(1, ⟨BitVec.ofInt 32 (-32768), 79108⟩)] } }) = some (21406, 0) ∧
    seen (fun b => (b.front, b.version, b.engPhase, b.irqStat)) .engine (at_ cfg8 { Block.atReset with
      engPhase := .pub, irqStat := 1 }) = some (.b1, 1, .idle, 3) := by decide +kernel

/-- AV9: ENG_START finds the bank overwritten. -/
theorem test_start_skips : seen (fun b => (b.pending, b.skipCnt, b.engPhase, b.irqStat)) .engine
    (at_ cfg8 { Block.atReset with pending := true }) = some (false, 1, .idle, 0x010) := by decide

/-! ### RC and RPORT (vectors RCV) -/

/-- The block of vector RCV1 while it emits: slot 0 latched bank 1, version 1. -/
def emitting (rb0 : Word) (idx : Nat) : Block :=
  { Block.atReset with
    version := 1, front := .b1, bankVer := { b0 := 0, b1 := 1 }, rb := { b0 := { cells := [] }, b1 := { cells := [(0, rb0)] } }
    slots := { cells := [(0, { seenVer := 1, latBank := .b1, latVer := 1 })] }
    reqStart := 0, reqCount := 3, rcState := .emit, rcStart := 0, rcCount := 3, rcIdx := idx }

/-- RCV1's first and last record, and RCV7's halving. -/
theorem test_emit : seen (fun b => b.rptOut.map recordWord) .rc (at_ cfg8 (emitting 65536 0)) = some (some 0x0000000000008000) ∧
    seen (fun b => b.rptOut.map recordWord) .rc (at_ cfg8 (emitting 65535 0)) = some (some 0x0000000000007FFF) ∧
    seen (fun b => (b.rptOut.map recordWord, b.irqStat, b.rcState)) .rc (at_ cfg8 (emitting 65536 3)) =
      some (some 0x4000000300000001, 0x040, .waiting) := by decide

/-- RCV4: the latched bank has a newer stamp. -/
theorem test_abort : seen (fun b => (b.rptOut.map recordWord, reportReqWord b, b.irqStat)) .rc
    (at_ cfg8 { emitting 65536 1 with rcCount := 2, version := 3, bankVer := { b0 := 2, b1 := 3 } }) =
      some (some 0x8000000100000001, 0x80000002, 0x080) := by decide

/-- RPORT emits the record it takes. -/
theorem test_rport : events .rport (at_ cfg8 { Block.atReset with rptOut := some (.fin 3 1) }) = some [.rpt (.fin 3 1)] ∧
    seen (·.rptOut) .rport (at_ cfg8 { Block.atReset with rptOut := some (.fin 3 1) }) = some none := by decide

/-! ### DB (vectors DV) -/

/-- A block whose input 0 has the registers `d`. -/
def pressed (d : DbInput) : Block := { Block.atReset with inputs := { cells := [(0, d)] } }

/-- DV1, steps 2 and 5, at P_DB_DELAY = 3. -/
theorem test_db : seen (inputAt · 0) (.db 1 false) (at_ { cfg8 with dbDelay := 3 } (pressed ⟨true, false, false, .idle, 0⟩)) =
      some ⟨true, true, false, .deb, 3⟩ ∧
    seen (fun b => (inputAt b 0, evqWord b, b.irqStat)) (.db 1 true) (at_ cfg8 (pressed ⟨true, true, true, .deb, 1⟩)) =
      some (⟨true, true, true, .idle, 1⟩, 0x80000001, 4) := by decide

/-- DV2, step 5: an edge on a tick restarts the delay. DV3, step 5: an expiry with the level low pushes nothing. -/
theorem test_db_retrigger :
    seen (inputAt · 0) (.db 1 true) (at_ { cfg8 with dbDelay := 3 } (pressed ⟨true, false, true, .deb, 1⟩)) =
      some ⟨true, true, false, .deb, 3⟩ ∧
    seen (fun b => (inputAt b 0, b.evqValid)) (.db 0 true) (at_ cfg8 (pressed ⟨false, false, true, .deb, 1⟩)) =
      some (⟨false, false, false, .idle, 1⟩, false) := by decide

/-- DV6: a low pin of an active-low input is asserted. DV8, step 3: two expiries, one queued, one dropped. -/
theorem test_db_polarity_and_drop :
    seen (fun b => (inputAt b 0).s1) (.db 0 false) (at_ { cfg8 with activeLow := 1 } Block.atReset) = some true ∧
    seen (fun b => (evqWord b, b.dropCnt, b.irqStat, dbStateWord { cfg8 with nIn := 2 } b)) (.db 3 true)
      (at_ { cfg8 with nIn := 2 } { Block.atReset with inputs := { cells := [(0, ⟨true, true, false, .deb, 1⟩),
        (1, ⟨true, true, false, .deb, 1⟩)] } }) = some (0x80000001, 1, 0x024, 0x00030000) := by decide

/-! ### RESET (vectors XV, EV7) -/

/-- EV7, XV3. -/
theorem test_reset : events .reset (at_ cfg8 { Block.atReset with irqStat := 1, irqEn := 1, rptOut := some (.fin 1 1) }) =
      some [.irq false] ∧
    seen id .reset (at_ cfg8 { Block.atReset with fatal := true, engPhase := .fft, evqValid := true }) =
      some Block.atReset := by decide

/-! ### Pseudo-instructions (R94) -/

/-- EVQ_DRAIN reads a queued event and then the empty queue; SUB_READ ends with ok = 0 where the latched bank is written. -/
theorem test_pseudo :
    (match perform .evqDrain [[], [], []] [] (at_ cfg8 { Block.atReset with
        evqValid := true, evqEntry := { idx := 0, cls := 1 } }) with
      | .next u => u.done && u.seen == [.read 0x80000001 .okay, .read 0 .okay]
      | .fault _ => false
      | .refused _ => false) = true ∧
    subReadOk 1 [.write .okay, .read 7 .okay, .read 0b101 .okay] = false ∧
    subReadValues 1 [.write .okay, .read 7 .okay, .read 0b101 .okay] = [7] ∧
    subPollNew [.read 0b101 .okay] = true := by decide

/-- R85, R86: the ends of the address range, and a SUB_READ beyond it, which still reads (notes/assumptions/20.md). -/
theorem test_keys : readKey 0xFFFFC = 0x0FFFFC ∧ writeKey 0xFFFFC = 0x1FFFFC ∧
    nextAccess (.subRead 15 0x4000 1) [.write .okay] = some (readAt 0) ∧ decode (readAt 0x100000) = .rdCmd := by decide

/-! ### Witnesses: states and operands that meet the hypotheses of a statement together -/

/-- The invariant of a machine whose internal memories hold their reset words, from its other clauses. -/
theorem inv_of_no_cells {s : State} (hv : configValid s.cfg = true)
    (hm : s.blk.sb = { cells := [] } ∧ s.blk.x = { cells := [] } ∧ s.blk.rb = { b0 := { cells := [] }, b1 := { cells := [] } } ∧
      s.blk.slots = { cells := [] } ∧ s.blk.inputs = { cells := [] })
    (hi : s.blk.wp < 2 * winLen s.cfg ∧ s.blk.op < winLen s.cfg ∧ s.blk.activeWave.toNat < s.cfg.nWave)
    (hw : s.blk.acqRun = true → s.blk.wp % winLen s.cfg ≠ 0 →
      s.blk.bankOk.get (Bank.ofIndex (s.blk.wp / winLen s.cfg)) = false)
    (he : s.blk.engI ≤ winLen s.cfg ∧ 1 ≤ s.blk.engStage ∧ s.blk.engStage ≤ s.cfg.lgN ∧ s.blk.engQ < binCount s.cfg)
    (hp : (s.blk.engPhase = .load → s.blk.bankOk.get s.blk.ldBank = true ∧ s.blk.engI < winLen s.cfg) ∧
      (s.blk.engPhase = .mag → s.blk.engI < binCount s.cfg))
    (hb : s.blk.bankVer.get s.blk.front = s.blk.version ∧ (s.blk.engPhase = .mag ∨ s.blk.engPhase = .pub →
      s.blk.bankVer.get s.blk.front.other = s.blk.version + 1))
    (hr : s.blk.armed = false ∧ s.blk.rcState ≠ .emit ∧ s.blk.rptOut = none ∧ s.blk.fatal = false ∧
      s.blk.evqValid = false ∧ s.blk.respCode.toNat ≤ 5)
    (ht : lastIrq s.trace = irqLevel s.blk) : Inv s := by
  obtain ⟨hsb, hx, hrb, hsl, hin⟩ := hm
  obtain ⟨h1, h2, h3, h4, h5, h6⟩ := hr
  have hsb' : ∀ j, sbAt s.blk j = 0 := fun j => by unfold sbAt; rw [hsb]; rfl
  have hin' : ∀ i, inputAt s.blk i = DbInput.atReset := fun i => by unfold inputAt; rw [hin]; rfl
  constructor
  · exact hv
  · rw [hsb, hx, hrb, hsl, hin]; exact ⟨rfl, rfl, rfl, rfl, rfl, rfl⟩
  · refine ⟨fun j _ => hsb' j, fun k _ => ?_, fun bank k _ => ?_, fun n _ => ?_, fun i _ => hin' i⟩
    · unfold xAt; rw [hx]; rfl
    · unfold rbAt; rw [hrb]; cases bank <;> rfl
    · unfold slotAt; rw [hsl]; rfl
  · intro j; rw [hsb']; exact Nat.two_pow_pos _
  · exact hi
  · exact hw
  · exact fun h => (hp.1 h).1
  · exact he
  · exact fun h => (hp.1 h).2
  · exact hp.2
  · exact hb.1
  · exact hb.2
  · intro h; rw [h1] at h; cases h
  · exact fun h => absurd h h2
  · intro r h; rw [h3] at h; cases h
  · intro h; rw [h4] at h; cases h
  · intro h; rw [h5] at h; cases h
  · exact h6
  · intro i; rw [hin']; exact ⟨Nat.zero_le _, fun h => by cases h⟩
  · exact ht

/-- The bound on the engine's words, where S.X holds its reset words. -/
theorem bounded_of_no_cells {s : State} (hx : s.blk.x = { cells := [] }) : TransformBounded s := by
  have h : ∀ k, xAt s.blk k = Cplx.zero := fun k => by unfold xAt; rw [hx]; rfl
  have h0 : ∀ q : ℚ, Cplx.zero.within q := fun q => by simp [Cplx.within, Cplx.zero, sq_nonneg]
  refine ⟨fun _ i _ => ?_, fun _ k _ => ?_, fun _ k _ => ?_⟩ <;> rw [h] <;> exact h0 _

/-- A machine of this hardware, its engine in phase `p` with `mag` and `pub` entered as R176 leaves them. -/
def inPhase (p : EngPhase) : State :=
  at_ Config.hardware { Block.atReset with
    engPhase := p, bankOk := { b0 := true, b1 := false }, bankVer := { b0 := 0, b1 := 1 } }

theorem inv_inPhase (p : EngPhase) : Inv (inPhase p) := by
  apply inv_of_no_cells <;> first | exact ⟨rfl, rfl, rfl, rfl, rfl⟩ | (cases p <;> decide)

/-- DecodeInvertsEncode: a well-formed term for each check, at the ends of its range. -/
theorem test_witness_wf : [Instr.illegalReservedBits 0x00000001, .illegalReservedBits 0x60000010,
    .illegalReservedBits 0x4FFFFFFF, .illegalOp8F 0x8 0, .illegalOp8F 0xF 0xFFFFFFF, .rdResSodd 1 0, .rdResSodd 15 0x3FFF,
    .rdResS2 2 0, .rdResS2 14 0, .rdResS4 4 0, .rdResS4 12 0, .rdResS8 8 0, .busError 32 0x00003C 0,
    .busError 32 0x100004 0, .busError 8 0x000034 0].all Instr.wf = true := by decide

/-- NopAndIllegalWriteOnlyResp: words at the edges of each kind of illegal command. -/
theorem test_witness_illegal : [0x00000001, 0x38000000, 0x40000100, 0x48000000, 0x60000010, 0x68000000, 0x70000000,
    0x7FFFFFFF, 0x80000000, 0xFFFFFFFF].all (fun w : Word =>
      let op := (w.extractLsb' 28 4).toNat
      decide (7 ≤ op ∨ (op ≤ 3 ∧ w.extractLsb' 0 28 ≠ 0) ∨ (op = 4 ∧ w.extractLsb' 8 20 ≠ 0) ∨
        (op = 6 ∧ w.extractLsb' 4 24 ≠ 0))) = true := by decide

/-- OnlyListedAccessesAreOkay: the last listed offset and the first unlisted one of each part of the map. -/
theorem test_witness_listed : configValid cfgD = true ∧
    [0x38, 0x3C, 0x7C, 0x80, 0x8C, 0x90, 0xF8, 0xFFFC, 0x10000, 0x101FC, 0x10200, 0x20000, 0xF0000, 0xFFFFC].map (fun addr =>
      rd addr (State.boot cfgD) == some (.read 0 .slverr)) =
    [false, true, true, false, false, true, true, true, false, false, true, true, true, true] ∧
    [0x00, 0x04, 0x0C, 0x10, 0x14, 0x30, 0x34].map (fun addr =>
      reply (writeAt addr 0) (State.boot cfgD) == some (.write .okay)) =
    [true, false, true, true, false, true, false] ∧
    rd 0x00000 (State.boot cfgD) = some (.read 0 .okay) := by decide

/-- StepRunsDecodedAccess. -/
theorem test_witness_step : configValid (State.reset.withNext (.host (readAt 0x34))).cfg = true ∧
    (State.reset.withNext (.host (readAt 0x34))).sched = .host (readAt 0x34) :: [] ∧
    decode (readAt 0x34) = .rdId ∧ Instr.wf .rdId = true := by decide

/-- AcqStartEffect and OutStartEffect: the first case and the last, in the order of the rules (the others are tests
above). -/
theorem test_witness_starts :
    seen (fun b => (respWord b, b.acqRun)) (cmd 0x10000000) (at_ cfg8 { Block.atReset with fatal := true }) =
      some (0x104, false) ∧
    seen (fun b => (respWord b, b.wp)) (cmd 0x10000000) (at_ { cfg8 with initFail := true }
      { Block.atReset with acqRun := true, wp := 5 }) = some (0x100, 5) ∧
    seen (fun b => (respWord b, b.outRun)) (cmd 0x20000000) (at_ cfg8 { Block.atReset with fatal := true }) =
      some (0x204, false) ∧
    seen (fun b => (respWord b, b.fatal, b.irqStat)) (cmd 0x20000000) (at_ { cfg8 with initFail := true } Block.atReset) =
      some (0x204, true, 0x100) := by decide

/-- DbStateReadReturnsInputs: the widest configuration. -/
theorem test_witness_dbState : (State.boot { cfg8 with nIn := 16 }).cfg.nIn ≤ 16 := by decide

/-- ResultReads: each form, and slots at both ends of the range that exists. -/
theorem test_witness_results : ∃ s : State, s.cfg.nSub = 9 ∧ exec (.rdResSodd 1 0) s = .next (s.readOk 0) ∧
    exec (.rdResS8 8 127) s = .next (s.readOk 0) ∧ exec (.rdResSodd 9 0) s = .next s.readError ∧
    exec (.rdResS2 2 128) s = .next s.readError ∧ exec (.rdResS4 4 127) s = .next (s.readOk 0) :=
  ⟨State.boot { cfgD with nSub := 9 }, rfl, rfl, rfl, rfl, rfl, rfl⟩

/-- PlainReadsAreIdempotent. -/
theorem test_witness_plainRead : ∃ s t u, plainRead .rdStatus = true ∧ exec .rdStatus s = .next t ∧
    exec .rdStatus t = .next u := ⟨State.boot cfg8, _, _, rfl, rfl, rfl⟩

/-- HostNeverTouchesEngine and HostMutatorsAreTheOnlyOnes: accesses that do pop, select and arm. -/
theorem test_witness_host : ∃ s t u v : State,
    exec .rdEvqPop s = .next t ∧ s.blk.evqValid = true ∧ t.blk.evqValid = false ∧
    exec (.wrCmd 0x40000001) s = .next u ∧ u.blk.activeWave ≠ s.blk.activeWave ∧
    exec (.armReport 0 1) s = .next v ∧ v.blk.armed ≠ s.blk.armed :=
  ⟨at_ cfg8 { Block.atReset with evqValid := true, evqEntry := { idx := 0, cls := 1 } }, _, _, _, rfl, rfl, rfl, rfl,
    by decide, rfl, by decide⟩

/-- HostMutatorsAreTheOnlyOnes: a check that takes the request and an abort that arms it again. -/
theorem test_witness_request :
    seen (fun b => (b.armed, b.reqCount)) .rc (at_ cfg8 { Block.atReset with rcState := .check, armed := true, reqCount := 2 }) =
      some (false, 2) ∧
    seen (fun b => (b.armed, b.reqStart, b.reqCount)) .rc (at_ cfg8 { Block.atReset with
      rcState := .emit, rcStart := 1, rcCount := 3, bankVer := { b0 := 2, b1 := 1 } }) = some (true, 1, 3) := by decide

/-- TickStreamsWaveform: both of its cases. -/
theorem test_witness_stream : configValid (at_ cfg8 { Block.atReset with outRun := true, op := 7 }).cfg = true ∧
    (at_ cfg8 { Block.atReset with outRun := true, op := 7 }).blk.acqRun = false ∧
    configValid (State.boot cfg8).cfg = true ∧ (State.boot cfg8).blk.acqRun = false ∧
    (State.boot cfg8).blk.outRun = false := by decide

/-- TickAcquiresSample: inside a window, and at the end of one with a load aborted, with the engine busy, and with a
window still pending. -/
theorem test_witness_acquire : ∀ s ∈ [at_ cfg8 { Block.atReset with acqRun := true },
      at_ cfg8 { Block.atReset with acqRun := true, wp := 7, engPhase := .load },
      at_ cfg8 { Block.atReset with acqRun := true, wp := 15, engPhase := .fft, pending := true }],
    configValid s.cfg = true ∧ s.blk.acqRun = true := by decide

/-- WindowOfTicksCompletesBank: a window of this hardware from the start of bank 1. -/
theorem test_witness_window : ∃ (xs : List Sample) (s : State), Inv s ∧ s.blk.acqRun = true ∧
    s.blk.wp % winLen s.cfg = 0 ∧ xs.length = winLen s.cfg ∧ s.sched = xs.map .sample ++ [] :=
  ⟨List.replicate 256 2048, { at_ Config.hardware { Block.atReset with acqRun := true, wp := 256 } with
      sched := List.replicate 256 (.sample 2048) },
    by apply inv_of_no_cells <;> first | exact ⟨rfl, rfl, rfl, rfl, rfl⟩ | decide,
    rfl, rfl, List.length_replicate, by rw [List.map_replicate, List.append_nil]⟩

/-- EngStartTakesOrSkips: both cases. -/
theorem test_witness_engStart : ∀ ok : Bool, ∃ s : State, configValid s.cfg = true ∧ s.blk.engPhase = .idle ∧
    s.blk.pending = true ∧ s.blk.bankOk.get s.blk.cbank = ok :=
  fun ok => ⟨at_ cfg8 { Block.atReset with pending := true, bankOk := { b0 := ok, b1 := false } }, rfl, rfl, rfl, rfl⟩

/-- EngLoadCopiesSample: the first sample of a window and the last. -/
theorem test_witness_engLoad : ∀ i ∈ [0, 255], ∃ s : State, configValid s.cfg = true ∧ s.blk.engPhase = .load ∧
    s.blk.engI = i :=
  fun i _ => ⟨at_ Config.hardware { Block.atReset with engPhase := .load, engI := i }, rfl, rfl, rfl⟩

/-- EngFftRunsButterfly: the outputs fit inside a stage, at its end and at the end of the last. -/
theorem test_witness_engFft : [(1, 0), (1, 3), (3, 3)].all (fun p =>
    (after .engine (at_ cfg8 { Block.atReset with engPhase := .fft, engStage := p.1, engQ := p.2 })).isSome) = true := by
  decide +kernel

/-- EngFftRunsButterfly, StepStopsOnlyAsSpecified: an output outside SInt_32 is the fault. -/
theorem test_witness_overflow : ∃ s : State, configValid s.cfg = true ∧ s.nextAction = .engine ∧
    s.blk.engPhase = .fft ∧ step s = .fault .arithOverflow :=
  ⟨(at_ cfg8 { Block.atReset with engPhase := .fft, x := { cells := [(0, ⟨0x7FFFFFFF, 0⟩), (1, ⟨1, 0⟩)] } }).withNext
    .engine, rfl, rfl, rfl, rfl⟩

/-- EngMagAndPub: the last bin, and PUB. -/
theorem test_witness_magPub : (∃ s : State, configValid s.cfg = true ∧ s.blk.engPhase = .mag ∧
      s.blk.engI + 1 = 2 ^ s.cfg.lgN / 2) ∧ (∃ s : State, configValid s.cfg = true ∧ s.blk.engPhase = .pub) :=
  ⟨⟨at_ cfg8 { Block.atReset with engPhase := .mag, engI := 3 }, rfl, rfl, rfl⟩,
    ⟨at_ cfg8 { Block.atReset with engPhase := .pub }, rfl, rfl⟩⟩

/-- JobPublishesTransform: a completed bank of this hardware, and the 1410 ENGINE steps of a job. -/
theorem test_witness_job : ∃ s : State, Inv s ∧ s.blk.engPhase = .idle ∧ s.blk.pending = true ∧
    s.blk.bankOk.get s.blk.cbank = true ∧ s.sched = List.replicate (jobSteps s.cfg) .engine ++ [] :=
  ⟨{ at_ Config.hardware { Block.atReset with pending := true, bankOk := { b0 := true, b1 := false } } with
      sched := List.replicate 1410 .engine },
    by apply inv_of_no_cells <;> first | exact ⟨rfl, rfl, rfl, rfl, rfl⟩ | decide,
    rfl, rfl, rfl, by rw [List.append_nil]; rfl⟩

/-- RcWakesAndChecks: a wake, and a check with and without a request armed. -/
theorem test_witness_rcWake : (∃ s : State, configValid s.cfg = true ∧ s.blk.rcState = .waiting ∧
      s.blk.version ≠ (slotAt s.blk 0).seenVer) ∧
    ∀ armed : Bool, ∃ s : State, configValid s.cfg = true ∧ s.blk.rcState = .check ∧ s.blk.armed = armed :=
  ⟨⟨at_ cfg8 { Block.atReset with version := 1 }, rfl, rfl, by decide⟩,
    fun armed => ⟨at_ cfg8 { Block.atReset with rcState := .check, armed := armed }, rfl, rfl, rfl⟩⟩

/-- RcEmitsOneRecord: an abort, a record of bin 0, the last data record and the END record. -/
theorem test_witness_rcEmit : ∀ b ∈ [{ emitting 65536 1 with bankVer := { b0 := 2, b1 := 3 } }, emitting 65536 0,
      emitting 65536 2, emitting 65536 3],
    configValid (at_ cfg8 b).cfg = true ∧ (at_ cfg8 b).blk.rcState = .emit ∧ (at_ cfg8 b).blk.rptOut = none := by decide

/-- RportTakesRecord. -/
theorem test_witness_rport : ∃ (r : Record) (s : State), configValid s.cfg = true ∧ s.blk.rptOut = some r :=
  ⟨.fin 3 1, at_ cfg8 { Block.atReset with rptOut := some (.fin 3 1) }, rfl, rfl⟩

/-- StuckAgentsChangeNothing: the three idle agents at reset, and the emission held up by a full port. -/
theorem test_witness_stuck : (∃ s : State, configValid s.cfg = true ∧ s.blk.engPhase = .idle ∧ s.blk.pending = false ∧
      s.blk.rcState = .waiting ∧ s.blk.version = (slotAt s.blk 0).seenVer ∧ s.blk.rptOut = none) ∧
    ∃ s : State, configValid s.cfg = true ∧ s.blk.rcState = .emit ∧ s.blk.rptOut ≠ none :=
  ⟨⟨State.boot cfg8, rfl, rfl, rfl, rfl, rfl, rfl⟩,
    ⟨at_ cfg8 { emitting 65536 0 with rptOut := some (.fin 3 1) }, rfl, rfl, by decide⟩⟩

/-- DbStepsEveryInput and DbPushesLowestInput: sixteen inputs, of which two expire. -/
theorem test_witness_db : ∃ s : State, configValid s.cfg = true ∧ s.cfg.nIn = 16 ∧
    (List.range s.cfg.nIn).filter (fun i => pushesEvent (inputAt s.blk i) true) = [0, 15] :=
  ⟨at_ { cfg8 with nIn := 16 } { Block.atReset with inputs := { cells := [(0, ⟨true, true, true, .deb, 1⟩),
      (3, ⟨true, true, true, .deb, 2⟩), (15, ⟨true, true, true, .deb, 1⟩)] } }, rfl, rfl, by decide⟩

/-- DebounceIgnoresTheRest: two blocks that differ elsewhere. -/
theorem test_witness_sameDebounce : SameDebounce (pressed ⟨true, true, true, .deb, 1⟩)
    { pressed ⟨true, true, true, .deb, 1⟩ with acqRun := true, engPhase := .fft, version := 7, dropCnt := 3 } :=
  ⟨rfl, rfl, rfl⟩

/-- DelayExpiresAtItsLastTick: this hardware's whole delay of 50 ticks. -/
theorem test_witness_expiry : ∃ (pins : BitVec 16) (s : State), configValid s.cfg = true ∧ s.cfg.nIn = 1 ∧
    pinAsserted s.cfg pins 0 = true ∧ (inputAt s.blk 0).s1 = true ∧ (inputAt s.blk 0).s2 = true ∧
    (inputAt s.blk 0).st = .deb ∧ 1 ≤ (inputAt s.blk 0).cnt.toNat ∧ s.blk.evqValid = false ∧
    s.sched = List.replicate (inputAt s.blk 0).cnt.toNat (.db pins true) ++ [] :=
  ⟨1, { at_ Config.hardware (pressed ⟨true, true, false, .deb, 50⟩) with sched := List.replicate 50 (.db 1 true) },
    rfl, rfl, by decide, rfl, rfl, rfl, by decide, rfl, rfl⟩

/-- ReleaseBeforeExpiryIsRejected: released with one tick left. -/
theorem test_witness_release : ∃ (pins : BitVec 16) (s : State), configValid s.cfg = true ∧ s.cfg.nIn = 1 ∧
    pinAsserted s.cfg pins 0 = false ∧ (inputAt s.blk 0).s1 = false ∧ (inputAt s.blk 0).st = .deb ∧
    1 ≤ (inputAt s.blk 0).cnt.toNat ∧
    s.sched = List.replicate (inputAt s.blk 0).cnt.toNat (.db pins true) ++ [] :=
  ⟨0, { at_ Config.hardware (pressed ⟨false, true, true, .deb, 1⟩) with sched := List.replicate 1 (.db 0 true) },
    rfl, rfl, by decide, rfl, rfl, by decide, rfl⟩

/-- ResetStepResetsBlock and RegistersReadZeroAfterReset: this hardware, and the last word of the last slot. -/
theorem test_witness_reset : configValid Config.hardware = true ∧ (1 : BitVec 4).toNat < Config.hardware.nSub ∧
    1 ≤ (1 : BitVec 4).toNat ∧ (127 : BinWord).toNat < binCount Config.hardware := by decide

/-- StepKeepsInvariant, StepKeepsTransformBounded, ValidConfigurationNeverOverflows: in every phase of the engine a step of
this hardware meets their hypotheses. -/
theorem test_witness_inv (p : EngPhase) : ∃ t, Inv ((inPhase p).withNext .engine) ∧
    TransformBounded ((inPhase p).withNext .engine) ∧
    step ((inPhase p).withNext .engine) = .next t := by
  have h : ∃ t, step ((inPhase p).withNext .engine) = .next t := by
    have hs : (after .engine (inPhase p)).isSome = true := by cases p <;> decide +kernel
    unfold after at hs
    cases hst : step ((inPhase p).withNext .engine) with
    | next t => exact ⟨t, rfl⟩
    | fault f => rw [hst] at hs; cases hs
    | refused r => rw [hst] at hs; cases hs
  obtain ⟨t, ht⟩ := h
  refine ⟨t, ?_, bounded_of_no_cells rfl, ht⟩
  apply inv_of_no_cells <;> first | exact ⟨rfl, rfl, rfl, rfl, rfl⟩ | (cases p <;> decide)

/-- ValidConfigurationNeverOverflows, JobPublishesTransform: the hypotheses are met at both ends of R6's range too, the
smallest window and a largest one with P_L + P_B + P_G = 29. -/
theorem test_witness_configs (c : Config) (hc : c ∈ [{ cfg8 with lgN := 2, sampleBits := 1, guardBits := 0, twBits := 2 },
      { cfg8 with lgN := 14, sampleBits := 15, guardBits := 0, twBits := 14, resBits := 29 }]) :
    Inv (State.boot c) ∧ TransformBounded (State.boot c) := by
  refine ⟨?_, bounded_of_no_cells rfl⟩
  simp only [List.mem_cons, List.not_mem_nil, or_false] at hc
  rcases hc with rfl | rfl <;>
    (apply inv_of_no_cells <;> first | exact ⟨rfl, rfl, rfl, rfl, rfl⟩ | decide)

/-- StepStopsOnlyAsSpecified: an invalid configuration is refused. -/
theorem test_witness_invalid : configValid { cfg8 with lgN := 1 } = false ∧
    step (State.boot { cfg8 with lgN := 1 }) = .refused .invalidConfig := ⟨rfl, rfl⟩

/-- VersionChangesOnlyAtPublish. -/
theorem test_witness_version : ∃ s t : State, step s = .next t ∧ t.blk.version ≠ s.blk.version :=
  ⟨(inPhase .pub).withNext .engine, _, rfl, by decide⟩

/-- FatalEndsOnlyAtReset: the three hypotheses. -/
theorem test_witness_fatal : ∃ s t : State, step s = .next t ∧ s.blk.fatal = true ∧ s.nextAction ≠ .reset :=
  ⟨(at_ cfg8 { Block.atReset with fatal := true }).withNext (cmd 0x10000000), _, rfl, rfl, by decide⟩

/-- IrqBitsClearedOnlyByAck: a bit cleared, and the enables changed. -/
theorem test_witness_irq : (∃ s t : State, step s = .next t ∧ s.blk.irqStat.getLsbD 8 = true ∧
      t.blk.irqStat.getLsbD 8 = false) ∧ ∃ s t : State, step s = .next t ∧ t.blk.irqEn ≠ s.blk.irqEn :=
  ⟨⟨(at_ cfg8 { Block.atReset with irqStat := 0x101 }).withNext (.host (writeAt 0x0C 0x100)), _, rfl, by decide, by decide⟩,
    ⟨(at_ cfg8 Block.atReset).withNext (.host (writeAt 0x10 0x1FF)), _, rfl, by decide⟩⟩

/-- SlotsChangeOnlyWhenTheyConsume: slot 0 by a wake, slot 1 by SUB_ACK. -/
theorem test_witness_slots : (∃ s t : State, step s = .next t ∧ slotAt t.blk 0 ≠ slotAt s.blk 0) ∧
    ∃ s t : State, step s = .next t ∧ slotAt t.blk 1 ≠ slotAt s.blk 1 :=
  ⟨⟨(at_ cfg8 { Block.atReset with version := 1, front := .b1 }).withNext .rc, _, rfl, by decide⟩,
    ⟨(at_ cfg8 { Block.atReset with version := 1, front := .b1 }).withNext (cmd 0x60000001), _, rfl, by decide⟩⟩

/-- ResultWordsChangeOnlyInMag. -/
theorem test_witness_resultWord : ∃ s t : State, step s = .next t ∧ rbAt t.blk .b1 1 ≠ rbAt s.blk .b1 1 :=
  ⟨(at_ cfg8 { Block.atReset with engPhase := .mag, engI := 1, x := { cells := [(1, ⟨262144, 0⟩)] } }).withNext .engine,
    _, rfl, by decide +kernel⟩

/-- ValidLatchKeepsWords: slot 1 holds the front bank while the engine writes the other. -/
theorem test_witness_validLatch : ∃ s t : State, Inv s ∧ step s = .next t ∧ s.nextAction ≠ .reset ∧
    slotAt t.blk 1 = slotAt s.blk 1 ∧ (slotAt s.blk 1).latVer ≠ s.blk.version + 1 ∧ validFlag t.blk 1 = true :=
  ⟨(inPhase .mag).withNext .engine, _,
    by apply inv_of_no_cells <;> first | exact ⟨rfl, rfl, rfl, rfl, rfl⟩ | decide,
    rfl, by decide, rfl, by decide, by decide +kernel⟩

/-- SubReadIsSnapshot: another agent steps between the accesses, and the read of two words ends with ok. -/
theorem test_witness_subRead : ∃ u, Inv (inPhase .mag) ∧ 0 + 2 ≤ binCount (inPhase .mag).cfg ∧
    perform (.subRead 1 0 2) [[.engine], [.rc], [.sample 5], []] [] (inPhase .mag) = .next u ∧ u.done = true ∧
    subReadOk 2 u.seen = true ∧ subReadValues 2 u.seen = [0, 0] := by
  have h : (match perform (.subRead 1 0 2) [[.engine], [.rc], [.sample 5], []] [] (inPhase .mag) with
    | .next u => u.done && subReadOk 2 u.seen && subReadValues 2 u.seen == [0, 0]
    | .fault _ => false
    | .refused _ => false) = true := by decide +kernel
  cases hu : perform (.subRead 1 0 2) [[.engine], [.rc], [.sample 5], []] [] (inPhase .mag) with
  | next u =>
    rw [hu] at h
    simp only [Bool.and_eq_true, beq_iff_eq] at h
    exact ⟨u, inv_inPhase .mag, by decide, rfl, h.1.1, h.1.2, h.2⟩
  | fault f => rw [hu] at h; cases h
  | refused e => rw [hu] at h; cases h

/-- TwiddlesAreRoundedCosines. -/
theorem test_witness_twiddle : Config.hardware.lgN = 8 ∧ Config.hardware.twBits = 15 ∧ 127 < 128 := by decide

/-- ZeroWindowGivesZeroResult: the smallest and the largest valid window. -/
theorem test_witness_zeroWindow : configValid { cfg8 with lgN := 2 } = true ∧
    configValid { cfg8 with lgN := 14, sampleBits := 10, guardBits := 5 } = true := by decide

end Sys2Proof.Tests
end

section
/-! The family of spec/00_scope.md: when a step stops (R6, R11, R177), which step runs a host access (R10), what a pick of
an agent with no enabled step leaves (R11), and the integer square root of R8. -/

namespace Sys2Proof.Machine

open Sys2Proof

/-! ### The head of the schedule -/

theorem State.nextAction_of_sched {s : State} {a : Action} {rest : List Action} (h : s.sched = a :: rest) :
    s.nextAction = a := by
  simp [State.nextAction, h]

theorem State.popAction_of_sched {s : State} {a : Action} {rest : List Action} (h : s.sched = a :: rest) :
    s.popAction = { s with sched := rest } := by
  simp [State.popAction, h]

/-- Settles O5: the pick is the head of the schedule, and running a host pick is `exec` of what it decodes to. -/
theorem stepRunsDecodedAccess : Obligations.StepRunsDecodedAccess := by
  intro s r rest i hv hs hd _
  calc step s
    _ = runAction s.nextAction s.popAction := step_of_valid hv
    _ = runAction (.host r) { s with sched := rest } := by
        rw [State.nextAction_of_sched hs, State.popAction_of_sched hs]
    _ = exec (decode r) { s with sched := rest } := rfl
    _ = exec i { s with sched := rest } := by rw [hd]

/-! ### Agents with no enabled step -/

theorem engineMove_of_idle {c : Config} {b : Block} (hp : b.engPhase = .idle) (hw : b.pending = false) :
    engineMove c b = .stuck := by
  simp [engineMove, hp, hw]

theorem newFlag_eq_false_iff (b : Block) (n : Nat) : newFlag b n = false ↔ b.version = (slotAt b n).seenVer := by
  simp [newFlag]

theorem rcMove_of_waiting {b : Block} (hr : b.rcState = .waiting) (hn : newFlag b 0 = false) : rcMove b = .stuck := by
  simp [rcMove, hr, hn]

theorem rcMove_of_portFull {b : Block} (hr : b.rcState = .emit) (hp : b.rptOut ≠ none) : rcMove b = .stuck := by
  simp [rcMove, hr, Option.isSome_iff_ne_none.2 hp]

theorem rportMove_of_portEmpty {b : Block} (hp : b.rptOut = none) : rportMove b = .stuck := by
  simp [rportMove, hp]

/-- Settles O37: each of the four agents is stuck, and a stuck agent's pick leaves the machine as it is. -/
theorem stuckAgentsChangeNothing : Obligations.StuckAgentsChangeNothing := by
  intro s hv
  refine ⟨fun hp hw => ?_, fun hr hn => ?_, fun hr hp => ?_, fun hp => ?_⟩
  · exact moves_of_stuck hv (by simp) (engineMove_of_idle hp hw)
  · exact moves_of_stuck hv (by simp) (rcMove_of_waiting hr ((newFlag_eq_false_iff _ _).2 hn))
  · exact moves_of_stuck hv (by simp) (rcMove_of_portFull hr hp)
  · exact moves_of_stuck hv (by simp) (rportMove_of_portEmpty hp)

/-! ### When a step stops -/

/-- Only the ENGINE agent, and only in phase FFT, can come to the fault (R177). -/
theorem agentMove_overflow {c : Config} {a : Action} {b : Block} (h : agentMove c a b = .overflow) :
    a = .engine ∧ b.engPhase = .fft := by
  cases a with
  | host r => cases h
  | sample x =>
    change sampleMove c x b = .overflow at h
    rw [sampleMove_eq] at h
    cases h
  | engine =>
    change engineMove c b = .overflow at h
    refine ⟨rfl, ?_⟩
    rcases engineMove_cases c b with ⟨_, _, e⟩ | ⟨_, _, e⟩ | ⟨_, e⟩ | ⟨hp, _⟩ | ⟨_, e⟩ | ⟨_, e⟩
    case inr.inr.inr.inl => exact hp
    all_goals rw [e] at h; cases h
  | rc =>
    change rcMove b = .overflow at h
    rcases rcMove_cases b with ⟨_, _, e⟩ | ⟨_, _, e⟩ | ⟨_, e⟩ | ⟨_, _, e⟩ | ⟨_, _, e⟩ <;> rw [e] at h <;> cases h
  | rport =>
    change rportMove b = .overflow at h
    rcases rportMove_cases b with ⟨_, _, e⟩ | ⟨_, e⟩ <;> rw [e] at h <;> cases h
  | db pins te => cases h
  | reset => cases h

/-- A move of an agent on the machine is never refused, and its one fault is ARITH_OVERFLOW. -/
theorem afterMove_next_or_overflow (s : State) (m : Move) :
    (∃ t, s.afterMove m = .next t) ∨ (m = .overflow ∧ s.afterMove m = .fault .arithOverflow) := by
  cases m with
  | moved b evs => exact .inl ⟨_, rfl⟩
  | stuck => exact .inl ⟨_, rfl⟩
  | overflow => exact .inr ⟨rfl, rfl⟩

/-- An action either ends in a next state, or is an ENGINE step of phase FFT that overflows. -/
theorem runAction_next_or_overflow (a : Action) (s : State) :
    (∃ t, runAction a s = .next t) ∨
      (a = .engine ∧ s.blk.engPhase = .fft ∧ runAction a s = .fault .arithOverflow) := by
  by_cases ha : ∃ r, a = .host r
  · obtain ⟨r, rfl⟩ := ha
    obtain ⟨b, rep, h⟩ := exec_answers (decode r) s
    exact .inl ⟨_, h⟩
  · rw [runAction_of_agent (not_exists.1 ha)]
    rcases afterMove_next_or_overflow s (agentMove s.cfg a s.blk) with h | ⟨hm, h⟩
    · exact .inl h
    · obtain ⟨he, hp⟩ := agentMove_overflow hm
      exact .inr ⟨he, hp, h⟩

/-- There is no machine for an invalid configuration (R6). -/
theorem step_of_invalid {s : State} (h : configValid s.cfg = false) : step s = .refused .invalidConfig := by
  unfold step runValid
  rw [h]

/-- The three ways a step ends: refused for its configuration, a next state, or an overflow of the engine. -/
theorem step_outcomes (s : State) :
    (configValid s.cfg = false ∧ step s = .refused .invalidConfig) ∨ (∃ t, step s = .next t) ∨
      (s.nextAction = .engine ∧ s.blk.engPhase = .fft ∧ step s = .fault .arithOverflow) := by
  cases hv : configValid s.cfg with
  | false => exact .inl ⟨rfl, step_of_invalid hv⟩
  | true =>
    rw [step_of_valid hv]
    simpa using runAction_next_or_overflow s.nextAction s.popAction

/-- Settles O49, from the three ways a step can end. -/
theorem stepStopsOnlyAsSpecified : Obligations.StepStopsOnlyAsSpecified := by
  intro s
  refine ⟨fun r hr => ?_, step_of_invalid, fun f hf => ?_⟩
  · rcases step_outcomes s with ⟨hv, h⟩ | ⟨t, h⟩ | ⟨_, _, h⟩ <;> rw [h] at hr <;> cases hr
    exact ⟨rfl, hv⟩
  · rcases step_outcomes s with ⟨_, h⟩ | ⟨t, h⟩ | ⟨he, hp, h⟩ <;> rw [h] at hf <;> cases hf
    exact ⟨rfl, he, hp⟩

/-! ### The integer square root -/

/-- The search for the root keeps it in `[r, r + 2^bits)`, and each bit halves that interval. -/
theorem isqrtBits_spec (v bits r : Nat) (hlo : r * r ≤ v) (hhi : v < (r + 2 ^ bits) * (r + 2 ^ bits)) :
    isqrtBits v bits r * isqrtBits v bits r ≤ v ∧ v < (isqrtBits v bits r + 1) * (isqrtBits v bits r + 1) := by
  induction bits generalizing r with
  | zero => exact ⟨hlo, hhi⟩
  | succ bits ih =>
    have hsplit : r + 2 ^ (bits + 1) = r + 2 ^ bits + 2 ^ bits := by rw [pow_succ]; omega
    rw [hsplit] at hhi
    by_cases ht : (r + 2 ^ bits) * (r + 2 ^ bits) ≤ v
    · simpa only [isqrtBits, if_pos ht] using ih _ ht hhi
    · simpa only [isqrtBits, if_neg ht] using ih _ hlo (Nat.lt_of_not_le ht)

/-- The root of `v` lies below the power of two that `isqrt` starts its search from. -/
theorem lt_sq_isqrtStart (v : Nat) : v < 2 ^ (Nat.log2 v / 2 + 1) * 2 ^ (Nat.log2 v / 2 + 1) :=
  calc v
    _ < 2 ^ (Nat.log2 v + 1) := Nat.lt_log2_self
    _ ≤ 2 ^ (Nat.log2 v / 2 + 1 + (Nat.log2 v / 2 + 1)) := Nat.pow_le_pow_right (by omega) (by omega)
    _ = 2 ^ (Nat.log2 v / 2 + 1) * 2 ^ (Nat.log2 v / 2 + 1) := Nat.pow_add ..

/-- Settles O56: the search starts from an interval that holds the root. -/
theorem isqrtIsFloorOfRoot : Obligations.IsqrtIsFloorOfRoot := fun v =>
  isqrtBits_spec v _ 0 (Nat.zero_le v) (by simpa using lt_sq_isqrtStart v)

end Sys2Proof.Machine
end

section
/-! What a step can leave the block as, said once for the HOST agent and once for the six other agents. The statements about
whole steps (spec/10_state.md R23, R59, R264) are case analyses over these two relations. -/

namespace Sys2Proof.Machine

open Sys2Proof

/-! ### The HOST agent -/

/-- The blocks a host access can leave, from the block `b` of a machine of configuration `c`. -/
inductive HostStep (c : Config) (b : Block) : Block → Prop
  /-- A read, a bus error. -/
  | same : HostStep c b b
  /-- NOP, an illegal word, a start of a running path, and every refused command: RESP alone. -/
  | respondOnly (o : BitVec 4) {code : BitVec 8} (hcode : code.toNat ≤ 5) : HostStep c b (respond b o code)
  /-- A start that fails (R102, R103). -/
  | failedStart (o : BitVec 4) (hf : b.fatal = false) (hi : c.initFail = true) : HostStep c b (respond (fatalPath b) o codeHwFail)
  | acqStart (hf : b.fatal = false) (ha : b.acqRun = false) (hi : c.initFail = false) :
      HostStep c b (respond { b with acqRun := true, wp := 0 } 0x1 codeOk)
  | outStart (hf : b.fatal = false) (ho : b.outRun = false) (hi : c.initFail = false) :
      HostStep c b (respond { b with outRun := true, op := 0 } 0x2 codeOk)
  | stop : HostStep c b (respond { b with acqRun := false, outRun := false } 0x3 codeOk)
  | selectWave {wave : BitVec 8} (hw : wave.toNat < c.nWave) :
      HostStep c b (respond { b with activeWave := wave, op := 0 } 0x4 codeOk)
  | armReport {start count : BinWord} (hc : 1 ≤ count.toNat) (hr : start.toNat + count.toNat ≤ binCount c) :
      HostStep c b (respond { b with reqStart := start, reqCount := count, armed := true } 0x5 codeOk)
  | subAck {n : Nat} (hpos : 1 ≤ n) (hn : n < c.nSub) : HostStep c b (respond (consume b n) 0x6 codeOk)
  | irqAck (bits : BitVec 9) : HostStep c b (irqAck b bits)
  | irqEn (bits : BitVec 9) : HostStep c b { b with irqEn := bits }
  | evqPop : HostStep c b { b with evqValid := false }
  | rateDiv (data : Word) : HostStep c b { b with rateDiv := data }

theorem hostStep_acqStart (c : Config) (b : Block) :
    HostStep c b (respond (acqStartEffect c b).1 0x1 (acqStartEffect c b).2) := by
  unfold acqStartEffect
  split
  · exact .respondOnly (code := codeHwFail) 0x1 (by decide)
  next hf =>
  split
  · exact .respondOnly (code := codeOk) 0x1 (by decide)
  next hrun =>
  split
  next hi => exact .failedStart 0x1 (eq_false_of_ne_true hf) hi
  next hi => exact .acqStart (eq_false_of_ne_true hf) (eq_false_of_ne_true hrun) (eq_false_of_ne_true hi)

theorem hostStep_outStart (c : Config) (b : Block) :
    HostStep c b (respond (outStartEffect c b).1 0x2 (outStartEffect c b).2) := by
  unfold outStartEffect
  split
  · exact .respondOnly (code := codeHwFail) 0x2 (by decide)
  next hf =>
  split
  · exact .respondOnly (code := codeOk) 0x2 (by decide)
  next hrun =>
  split
  next hi => exact .failedStart 0x2 (eq_false_of_ne_true hf) hi
  next hi => exact .outStart (eq_false_of_ne_true hf) (eq_false_of_ne_true hrun) (eq_false_of_ne_true hi)

theorem hostStep_selectWave (c : Config) (wave : BitVec 8) (b : Block) :
    HostStep c b (respond (selectWaveEffect c wave b).1 0x4 (selectWaveEffect c wave b).2) := by
  unfold selectWaveEffect
  split
  · exact .respondOnly (code := codeBadWave) 0x4 (by decide)
  · exact .selectWave (by omega)

theorem hostStep_armReport (c : Config) (start count : BinWord) (b : Block) :
    HostStep c b (respond (armReportEffect c start count b).1 0x5 (armReportEffect c start count b).2) := by
  unfold armReportEffect
  split
  · exact .respondOnly (code := codeInvalidRange) 0x5 (by decide)
  next h =>
    obtain ⟨hzero, hrange⟩ := not_or.1 h
    have hpos : count.toNat ≠ 0 := fun h0 => hzero (BitVec.eq_of_toNat_eq h0)
    exact .armReport (by omega) (by omega)

theorem hostStep_subAck (c : Config) (sub : BitVec 4) (b : Block) :
    HostStep c b (respond (subAckEffect c sub b).1 0x6 (subAckEffect c sub b).2) := by
  unfold subAckEffect
  split
  · exact .respondOnly (code := codeBadSub) 0x6 (by decide)
  next h =>
    obtain ⟨hzero, hsub⟩ := not_or.1 h
    have hpos : sub.toNat ≠ 0 := fun h0 => hzero (BitVec.eq_of_toNat_eq h0)
    exact .subAck (by omega) (by omega)

/-- A write to CMD runs the command of its data word (R100), so it can do what the ten commands can. -/
theorem hostStep_of_execWrCmd {data : Word} {s t : State} (h : execWrCmd data s = .next t) :
    HostStep s.cfg s.blk t.blk := by
  unfold execWrCmd at h
  split at h
  · cases h; exact .respondOnly 0x0 (by decide)
  · cases h; exact hostStep_acqStart ..
  · cases h; exact hostStep_outStart ..
  · cases h; exact .stop
  · cases h; exact hostStep_selectWave ..
  · cases h; exact hostStep_armReport ..
  · cases h; exact hostStep_subAck ..
  all_goals cases h; exact .respondOnly _ (by decide)

/-- A register read leaves the block, whether its slot or word exists or not. -/
theorem State.readSlot_blk (s : State) (n : Nat) (v : Word) : (s.readSlot n v).blk = s.blk := by
  unfold State.readSlot; split <;> rfl

theorem State.readResult_blk (s : State) (n i : Nat) : (s.readResult n i).blk = s.blk := by
  unfold State.readResult; split <;> rfl

theorem hostStep_of_exec {i : Instr} {s t : State} (h : exec i s = .next t) : HostStep s.cfg s.blk t.blk := by
  cases i with
  | nop => cases h; exact .respondOnly 0x0 (by decide)
  | acqStart => cases h; exact hostStep_acqStart ..
  | outStart => cases h; exact hostStep_outStart ..
  | stop => cases h; exact .stop
  | selectWave wave => cases h; exact hostStep_selectWave ..
  | armReport start count => cases h; exact hostStep_armReport ..
  | subAck sub => cases h; exact hostStep_subAck ..
  | illegalReservedBits w => cases h; exact .respondOnly _ (by decide)
  | illegalOp7 any => cases h; exact .respondOnly 0x7 (by decide)
  | illegalOp8F op any => cases h; exact .respondOnly op (by decide)
  | wrCmd data => exact hostStep_of_execWrCmd h
  | wrIrqStat data => cases h; exact .irqAck _
  | wrIrqEn data => cases h; exact .irqEn _
  | rdEvqPop => cases h; exact .evqPop
  | wrRateDiv data => cases h; exact .rateDiv data
  | rdSubStat n => cases h; rw [State.readSlot_blk]; exact .same
  | rdSubLatver n => cases h; rw [State.readSlot_blk]; exact .same
  | rdResSodd n k => cases h; rw [State.readResult_blk]; exact .same
  | rdResS2 n k => cases h; rw [State.readResult_blk]; exact .same
  | rdResS4 n k => cases h; rw [State.readResult_blk]; exact .same
  | rdResS8 n k => cases h; rw [State.readResult_blk]; exact .same
  | busError width key data =>
    change Host.Outcome.next (if field key 20 20 = 1 then s.writeError else s.readError) = .next t at h
    split at h <;> cases h <;> exact .same
  | _ => cases h; exact .same

/-! ### The other agents -/

/-- The blocks and events an enabled step of an agent other than HOST can come to. -/
inductive AgentStep (c : Config) (b : Block) : Action → Block → List Event → Prop
  /-- A tick with the output path stopped. -/
  | tick (x : Sample) (ho : b.outRun = false) :
      AgentStep c b (.sample x) (if b.acqRun then acquire c x b else b) []
  /-- A tick with the output path running. -/
  | streamTick (x : Sample) (ho : b.outRun = true) :
      AgentStep c b (.sample x) (stream c (if b.acqRun then acquire c x b else b)) [streamEvent c b]
  | engStart (hp : b.engPhase = .idle) (hw : b.pending = true) : AgentStep c b .engine (engStart b) []
  | engLoad (hp : b.engPhase = .load) : AgentStep c b .engine (engLoad c b) []
  | engFft (hp : b.engPhase = .fft) {top bot : Nat} {w : CInt} (hb : butterflyAt c b.engStage b.engQ = (top, bot, w))
      {y : CInt × CInt} (hy : y = butterfly c.twBits w (xAt b top).toInts (xAt b bot).toInts)
      (hfit : y.1.fits = true ∧ y.2.fits = true) :
      AgentStep c b .engine (fftAdvance c (setX (setX b top y.1.toCplx) bot y.2.toCplx)) []
  | engMag (hp : b.engPhase = .mag) : AgentStep c b .engine (engMag c b) []
  | engPub (hp : b.engPhase = .pub) : AgentStep c b .engine (engPub b) []
  | rcWake (hr : b.rcState = .waiting) (hn : newFlag b 0 = true) :
      AgentStep c b .rc { consume b 0 with rcState := .check } []
  | rcCheck (hr : b.rcState = .check) : AgentStep c b .rc (rcCheck b) []
  | rcEmit (hr : b.rcState = .emit) (hp : b.rptOut = none) : AgentStep c b .rc (rcEmit b) []
  | rport {r : Record} (hr : b.rptOut = some r) : AgentStep c b .rport { b with rptOut := none } [.rpt r]
  | db (pins : BitVec 16) (te : Bool) : AgentStep c b (.db pins te) (dbInputs c pins te b c.nIn) []
  | reset : AgentStep c b .reset Block.atReset []

theorem agentStep_of_engineMove {c : Config} {b b' : Block} {evs : List Event}
    (h : engineMove c b = .moved b' evs) : AgentStep c b .engine b' evs := by
  rcases engineMove_cases c b with ⟨hp, hw, e⟩ | ⟨_, _, e⟩ | ⟨hp, e⟩ | ⟨hp, e⟩ | ⟨hp, e⟩ | ⟨hp, e⟩ <;> rw [e] at h
  · cases h; exact .engStart hp hw
  · cases h
  · cases h; exact .engLoad hp
  · rcases engFft_cases c b (rfl : butterflyAt c b.engStage b.engQ = _) with ⟨hu, hv, e⟩ | ⟨_, e⟩ <;> rw [e] at h
    · cases h; exact .engFft hp rfl rfl ⟨hu, hv⟩
    · cases h
  · cases h; exact .engMag hp
  · cases h; exact .engPub hp

theorem agentStep_of_rcMove {c : Config} {b b' : Block} {evs : List Event}
    (h : rcMove b = .moved b' evs) : AgentStep c b .rc b' evs := by
  rcases rcMove_cases b with ⟨hr, hn, e⟩ | ⟨_, _, e⟩ | ⟨hr, e⟩ | ⟨hr, hp, e⟩ | ⟨_, _, e⟩ <;> rw [e] at h <;> cases h
  · exact .rcWake hr hn
  · exact .rcCheck hr
  · exact .rcEmit hr hp

theorem agentStep_of_agentMove {c : Config} {a : Action} {b b' : Block} {evs : List Event}
    (h : agentMove c a b = .moved b' evs) : AgentStep c b a b' evs := by
  cases a with
  | host r => cases h
  | sample x =>
    change sampleMove c x b = .moved b' evs at h
    by_cases ho : b.outRun = true
    · simp only [sampleMove, if_pos ho] at h
      cases h
      exact .streamTick x ho
    · simp only [sampleMove, if_neg ho] at h
      cases h
      exact .tick x (eq_false_of_ne_true ho)
  | engine => exact agentStep_of_engineMove h
  | rc => exact agentStep_of_rcMove h
  | rport =>
    change rportMove b = .moved b' evs at h
    rcases rportMove_cases b with ⟨r, hr, e⟩ | ⟨_, e⟩ <;> rw [e] at h <;> cases h
    exact .rport hr
  | db pins te => cases h; exact .db pins te
  | reset => cases h; exact .reset

/-! ### The machine -/

/-- What a step leaves: the configuration, the block and the events of a host access, of another agent's step or of a pick
that is stuck, and a trace that goes on with those events and then a change of the interrupt level. -/
theorem step_effect {s t : State} (h : step s = .next t) :
    configValid s.cfg = true ∧ t.cfg = s.cfg ∧ ∃ evs, t.trace = s.trace ++ evs ++ irqEvents s.blk t.blk ∧
      ((t.blk = s.blk ∧ evs = []) ∨ (HostStep s.cfg s.blk t.blk ∧ evs = []) ∨
        AgentStep s.cfg s.blk s.nextAction t.blk evs) := by
  obtain ⟨hv, ⟨r, b, rep, _, hexec, rfl⟩ | ⟨_, ⟨b, evs, hm, rfl⟩ | ⟨_, rfl⟩⟩⟩ := step_cases h
  · exact ⟨hv, by simp, [], by simp, .inr (.inl ⟨by simpa using hostStep_of_exec hexec, rfl⟩)⟩
  · exact ⟨hv, by simp, evs, by simp, .inr (.inr (agentStep_of_agentMove hm))⟩
  · exact ⟨hv, by simp, [], by simp, .inl ⟨by simp, rfl⟩⟩

end Sys2Proof.Machine
end

section
/-! The family of spec/10_state.md: the invariant `Inv` holds at reset (R260, R261) and every step of every agent keeps it
(R59), and the fatal bit is left only by RESET (R23, R264). -/

namespace Sys2Proof.Machine

open Sys2Proof

/-! ### Sizes in a valid configuration -/

theorem ranges_of_configValid {c : Config} (h : configValid c = true) :
    (2 ≤ c.lgN ∧ c.lgN ≤ 14) ∧ 1 ≤ c.nWave ∧ 1 ≤ c.nSub ∧ (1 ≤ c.nIn ∧ c.nIn ≤ 16) ∧
      (1 ≤ c.dbDelay ∧ c.dbDelay ≤ 65535) := by
  simp only [configValid, between, List.all_cons, List.all_nil, id, Bool.and_eq_true, Nat.ble_eq, and_true] at h
  tauto

theorem winLen_eq_two_mul_binCount {c : Config} (h : 1 ≤ c.lgN) : winLen c = 2 * binCount c := by
  obtain ⟨l, hl⟩ := Nat.exists_eq_add_of_le' h
  simp only [winLen, binCount, hl, pow_succ]
  omega

theorem two_le_binCount {c : Config} (h : 2 ≤ c.lgN) : 2 ≤ binCount c := by
  have : 2 ^ 2 ≤ 2 ^ c.lgN := Nat.pow_le_pow_right (by omega) h
  unfold binCount
  omega

theorem bitrev_lt (l i : Nat) : bitrev l i < 2 ^ l := by
  induction l generalizing i with
  | zero => simp [bitrev]
  | succ l ih =>
    have hbit : i % 2 * 2 ^ l ≤ 1 * 2 ^ l := Nat.mul_le_mul_right _ (by omega)
    have := ih (i / 2)
    simp only [bitrev, pow_succ]
    omega

/-- Butterfly `q` of a stage of the transform works on two elements of the window (R174). -/
theorem butterflyAt_lt {c : Config} {s q top bot : Nat} {w : CInt} (hs : 1 ≤ s) (hl : s ≤ c.lgN) (hq : q < binCount c)
    (h : butterflyAt c s q = (top, bot, w)) : top < winLen c ∧ bot < winLen c := by
  obtain ⟨e, rfl⟩ := Nat.exists_eq_add_of_le' hs
  obtain ⟨d, hd⟩ := Nat.exists_eq_add_of_le hl
  have hhalf : 2 ^ (e + 1) / 2 = 2 ^ e := by rw [pow_succ]; omega
  have hwin : winLen c = 2 ^ d * (2 * 2 ^ e) := by rw [winLen, hd]; ring
  have hbins : binCount c = 2 ^ d * 2 ^ e := by
    have := winLen_eq_two_mul_binCount (c := c) (by omega)
    rw [hwin] at this
    linarith
  have hg : q / 2 ^ e + 1 ≤ 2 ^ d := Nat.div_lt_of_lt_mul (by rw [mul_comm, ← hbins]; exact hq)
  have hj : q % 2 ^ e < 2 ^ e := Nat.mod_lt _ (Nat.two_pow_pos e)
  have hblock : (q / 2 ^ e + 1) * (2 * 2 ^ e) ≤ winLen c := by rw [hwin]; exact Nat.mul_le_mul_right _ hg
  simp only [butterflyAt, hhalf, Prod.mk.injEq] at h
  obtain ⟨rfl, rfl, _⟩ := h
  rw [pow_succ]
  generalize q / 2 ^ e = g at hblock ⊢
  have hbot : g * (2 ^ e * 2) + q % 2 ^ e + 2 ^ e < winLen c := by linarith
  exact ⟨lt_of_le_of_lt (Nat.le_add_right _ _) hbot, hbot⟩

/-! ### The invariant of a block -/

/-- A machine of configuration `c` with the block `b` whose one event told the level of `b`. -/
abbrev told (c : Config) (b : Block) : State :=
  { State.boot c with blk := b, trace := [.irq (irqLevel b)] }

/-- `Inv` as a predicate of the block: every clause but the last speaks of the configuration and the block alone, and the
last holds of `told c b` by definition. So an operation that leaves a clause's registers keeps the clause by definition
too, and `{ h with … }` below names exactly the clauses whose registers the operation writes. -/
abbrev BlockInv (c : Config) (b : Block) : Prop := Inv (told c b)

theorem told_irq (c : Config) (b : Block) : lastIrq (told c b).trace = irqLevel (told c b).blk := rfl

theorem inv_iff {s : State} : Inv s ↔ BlockInv s.cfg s.blk ∧ lastIrq s.trace = irqLevel s.blk :=
  ⟨fun h => ⟨{ h with irq_told := rfl }, h.irq_told⟩, fun ⟨h, ht⟩ => { h with irq_told := ht }⟩

theorem blockInv_atReset {c : Config} (hv : configValid c = true) : BlockInv c Block.atReset := by
  obtain ⟨⟨hl, _⟩, hw, _, _, _⟩ := ranges_of_configValid hv
  have hbins := two_le_binCount hl
  have hwin : 0 < winLen c := Nat.two_pow_pos _
  exact {
    cfg_valid := hv
    memories_wf := ⟨rfl, rfl, rfl, rfl, rfl, rfl⟩
    memories_bounded := ⟨fun _ _ => rfl, fun _ _ => rfl, fun bank _ _ => by cases bank <;> rfl, fun _ _ => rfl,
      fun _ _ => rfl⟩
    samples_fit := fun _ => Nat.two_pow_pos _
    indices := ⟨Nat.mul_pos two_pos hwin, hwin, hw⟩
    write_bank_incomplete := nofun
    load_bank_complete := nofun
    engine_indices := ⟨Nat.zero_le _, le_refl 1, le_trans one_le_two hl, lt_of_lt_of_le two_pos hbins⟩
    load_index := nofun
    mag_index := nofun
    front_stamp := rfl
    back_stamp := nofun
    armed_range := nofun
    emit_range := nofun
    record_range := nofun
    fatal_halts := nofun
    event_range := nofun
    resp_range := Nat.zero_le _
    debounce_range := fun _ => ⟨Nat.zero_le _, nofun⟩
    irq_told := told_irq c _ }

/-- Settles O45: at reset every register is in range, and no phase of the engine runs. -/
theorem resetStateIsInvariant : Obligations.ResetStateIsInvariant := by
  have hboot (c : Config) (hv : configValid c = true) : Inv (State.boot c) ∧ TransformBounded (State.boot c) :=
    ⟨inv_iff.2 ⟨blockInv_atReset hv, show false = irqLevel Block.atReset by decide⟩, nofun, nofun, nofun⟩
  obtain ⟨hi, hb⟩ := hboot Config.hardware (by decide)
  exact ⟨hi, hb, hboot⟩

/-! ### The shared operations -/

section
variable {c : Config} {b : Block}

theorem blockInv_irqSet (h : BlockInv c b) (bits : BitVec 9) : BlockInv c (irqSet b bits) :=
  { h with irq_told := told_irq c _ }

theorem blockInv_recordSkip (h : BlockInv c b) : BlockInv c (recordSkip b) := { h with irq_told := told_irq c _ }

theorem blockInv_recordDrop (h : BlockInv c b) : BlockInv c (recordDrop b) := { h with irq_told := told_irq c _ }

theorem blockInv_fatalPath (h : BlockInv c b) : BlockInv c (fatalPath b) :=
  { h with
    write_bank_incomplete := nofun
    fatal_halts := fun _ => ⟨rfl, rfl⟩
    irq_told := told_irq c _ }

theorem blockInv_respond (h : BlockInv c b) (o : BitVec 4) {code : BitVec 8} (hcode : code.toNat ≤ 5) :
    BlockInv c (respond b o code) :=
  { h with resp_range := hcode, irq_told := told_irq c _ }

theorem lowBits_lt (bits : Nat) (v : Sample) : (lowBits bits v).toNat < 2 ^ bits :=
  lt_of_le_of_lt (by rw [lowBits, BitVec.toNat_ofNat]; exact Nat.mod_le _ _) (Nat.mod_lt _ (Nat.two_pow_pos bits))

theorem blockInv_setSb (h : BlockInv c b) {j : Nat} (hj : j < 2 * winLen c) {v : Sample}
    (hv : v.toNat < 2 ^ c.sampleBits) : BlockInv c (setSb b j v) := by
  obtain ⟨hsb, hx, hrb, hslots, hin⟩ := h.memories_bounded
  obtain ⟨wsb, wrest⟩ := h.memories_wf
  exact { h with
    memories_wf := ⟨Memory.wf_set 0 b.sb j v wsb, wrest⟩
    memories_bounded := by
      refine ⟨fun k hk => ?_, hx, hrb, hslots, hin⟩
      have hne : k ≠ j := fun e => absurd hk (Nat.not_le.2 (e ▸ hj))
      rw [sbAt_setSb, if_neg hne]
      exact hsb k hk
    samples_fit := fun k => by
      rw [sbAt_setSb]
      split
      · exact hv
      · exact h.samples_fit k
    irq_told := told_irq c _ }

theorem blockInv_setX (h : BlockInv c b) {j : Nat} (hj : j < winLen c) (v : Cplx) : BlockInv c (setX b j v) := by
  obtain ⟨hsb, hx, hrb, hslots, hin⟩ := h.memories_bounded
  obtain ⟨wsb, wx, wrest⟩ := h.memories_wf
  exact { h with
    memories_wf := ⟨wsb, Memory.wf_set Cplx.zero b.x j v wx, wrest⟩
    memories_bounded := by
      refine ⟨hsb, fun k hk => ?_, hrb, hslots, hin⟩
      have hne : k ≠ j := fun e => absurd hk (Nat.not_le.2 (e ▸ hj))
      rw [xAt_setX, if_neg hne]
      exact hx k hk
    irq_told := told_irq c _ }

theorem blockInv_setRb (h : BlockInv c b) (bank : Bank) {j : Nat} (hj : j < binCount c) (v : Word) :
    BlockInv c (setRb b bank j v) := by
  obtain ⟨hsb, hx, hrb, hslots, hin⟩ := h.memories_bounded
  obtain ⟨wsb, wx, w0, w1, wrest⟩ := h.memories_wf
  exact { h with
    memories_wf := by
      cases bank with
      | b0 => exact ⟨wsb, wx, Memory.wf_set 0 b.rb.b0 j v w0, w1, wrest⟩
      | b1 => exact ⟨wsb, wx, w0, Memory.wf_set 0 b.rb.b1 j v w1, wrest⟩
    memories_bounded := by
      refine ⟨hsb, hx, fun p k hk => ?_, hslots, hin⟩
      have hne : ¬ (p = bank ∧ k = j) := fun e => absurd hk (Nat.not_le.2 (e.2 ▸ hj))
      rw [rbAt_setRb, if_neg hne]
      exact hrb p k hk
    irq_told := told_irq c _ }

theorem blockInv_setSlot (h : BlockInv c b) {n : Nat} (hn : n < c.nSub) (v : Latch) : BlockInv c (setSlot b n v) := by
  obtain ⟨hsb, hx, hrb, hslots, hin⟩ := h.memories_bounded
  obtain ⟨wsb, wx, w0, w1, wslots, win⟩ := h.memories_wf
  exact { h with
    memories_wf := ⟨wsb, wx, w0, w1, Memory.wf_set Latch.atReset b.slots n v wslots, win⟩
    memories_bounded := by
      refine ⟨hsb, hx, hrb, fun k hk => ?_, hin⟩
      have hne : k ≠ n := fun e => absurd hk (Nat.not_le.2 (e ▸ hn))
      rw [slotAt_setSlot, if_neg hne]
      exact hslots k hk
    irq_told := told_irq c _ }

theorem blockInv_consume (h : BlockInv c b) {n : Nat} (hn : n < c.nSub) : BlockInv c (consume b n) :=
  blockInv_setSlot h hn _

/-- The registers of an input are in range: R44's bound on the counter, which a running delay holds above 0. -/
def CounterInRange (delay : Nat) (d : DbInput) : Prop := d.cnt.toNat ≤ delay ∧ (d.st = .deb → 1 ≤ d.cnt.toNat)

theorem blockInv_setInput (h : BlockInv c b) {i : Nat} (hi : i < c.nIn) {v : DbInput}
    (hv : CounterInRange c.dbDelay v) : BlockInv c (setInput b i v) := by
  obtain ⟨hsb, hx, hrb, hslots, hin⟩ := h.memories_bounded
  obtain ⟨wsb, wx, w0, w1, wslots, win⟩ := h.memories_wf
  exact { h with
    memories_wf := ⟨wsb, wx, w0, w1, wslots, Memory.wf_set DbInput.atReset b.inputs i v win⟩
    memories_bounded := by
      refine ⟨hsb, hx, hrb, hslots, fun k hk => ?_⟩
      have hne : k ≠ i := fun e => absurd hk (Nat.not_le.2 (e ▸ hi))
      rw [inputAt_setInput, if_neg hne]
      exact hin k hk
    debounce_range := fun k => by
      rw [inputAt_setInput]
      split
      · exact hv
      · exact h.debounce_range k
    irq_told := told_irq c _ }

/-! ### The HOST agent -/

theorem blockInv_hostStep {b' : Block} (h : BlockInv c b) (hs : HostStep c b b') : BlockInv c b' := by
  have hwin : 0 < winLen c := Nat.two_pow_pos _
  obtain ⟨hwp, hop, hwave⟩ := h.indices
  cases hs with
  | same => exact h
  | respondOnly o hcode => exact blockInv_respond h o hcode
  | failedStart o => exact blockInv_respond (blockInv_fatalPath h) o (by decide)
  | acqStart hf =>
    refine blockInv_respond ?_ 0x1 (by decide)
    exact { h with
      indices := ⟨Nat.mul_pos two_pos hwin, hop, hwave⟩
      write_bank_incomplete := fun _ hw => absurd (Nat.zero_mod _) hw
      fatal_halts := fun hf' => absurd hf' (by simp [hf])
      irq_told := told_irq c _ }
  | outStart hf =>
    refine blockInv_respond ?_ 0x2 (by decide)
    exact { h with
      indices := ⟨hwp, hwin, hwave⟩
      fatal_halts := fun hf' => absurd hf' (by simp [hf])
      irq_told := told_irq c _ }
  | stop =>
    refine blockInv_respond ?_ 0x3 (by decide)
    exact { h with
      write_bank_incomplete := nofun
      fatal_halts := fun _ => ⟨rfl, rfl⟩
      irq_told := told_irq c _ }
  | selectWave hw =>
    refine blockInv_respond ?_ 0x4 (by decide)
    exact { h with indices := ⟨hwp, hwin, hw⟩, irq_told := told_irq c _ }
  | armReport hc hr =>
    refine blockInv_respond ?_ 0x5 (by decide)
    exact { h with armed_range := fun _ => ⟨hc, hr⟩, irq_told := told_irq c _ }
  | subAck _ hn => exact blockInv_respond (blockInv_consume h hn) 0x6 (by decide)
  | irqAck bits => exact { h with irq_told := told_irq c _ }
  | irqEn bits => exact { h with irq_told := told_irq c _ }
  | evqPop => exact { h with event_range := nofun, irq_told := told_irq c _ }
  | rateDiv data => exact { h with irq_told := told_irq c _ }

/-! ### The SAMPLE agent -/

/-- A load of the bank that is being written is aborted (R141). -/
def abortLoadOf (bank : Bank) (b : Block) : Block :=
  if b.engPhase = .load ∧ b.ldBank = bank then loadAbort b else b

/-- The bank that the next sample is written to is not complete any more, and is not being loaded. -/
def openBank (c : Config) (b : Block) : Block :=
  let bank := Bank.ofIndex (b.wp / winLen c)
  { abortLoadOf bank b with bankOk := (abortLoadOf bank b).bankOk.set bank false }

/-- The word and the write pointer of one sample. -/
def storeSample (c : Config) (x : Sample) (b : Block) : Block :=
  { setSb b b.wp (lowBits c.sampleBits x) with wp := (b.wp + 1) % (2 * winLen c) }

/-- A strobe completes its bank, counts the window, and records what it displaces. -/
theorem strobe_eq (b : Block) (bank : Bank) :
    strobe b bank =
      { b with
        bankOk := b.bankOk.set bank true
        cbank := bank
        wincnt := b.wincnt + 1
        pending := true
        ovrCnt := if b.engPhase ≠ .idle then b.ovrCnt + 1 else b.ovrCnt
        skipCnt := if b.pending then b.skipCnt + 1 else b.skipCnt
        irqStat :=
          let withOvr := if b.engPhase ≠ .idle then b.irqStat ||| irqWin ||| irqOvr else b.irqStat ||| irqWin
          if b.pending then withOvr ||| irqSkip else withOvr } := by
  unfold strobe
  by_cases he : b.engPhase ≠ .idle <;> by_cases hp : b.pending = true
  · simp only [if_pos he, if_pos hp]; rfl
  · simp only [if_pos he, if_neg hp]; rfl
  · simp only [if_neg he, if_pos hp]; rfl
  · simp only [if_neg he, if_neg hp]; rfl

theorem strobe_setWp (b : Block) (bank : Bank) (w : Nat) :
    { strobe b bank with wp := w } = strobe { b with wp := w } bank := by
  rw [strobe_eq, strobe_eq]

/-- One sample in the order in which each part keeps the invariant: the model aborts a load after it has written the word,
and moves the write pointer last. -/
theorem acquire_eq (c : Config) (x : Sample) (b : Block) :
    acquire c x b =
      if b.wp % winLen c = winLen c - 1 then
        strobe (storeSample c x (openBank c b)) (Bank.ofIndex (b.wp / winLen c))
      else storeSample c x (openBank c b) := by
  unfold acquire openBank abortLoadOf
  by_cases ha : b.engPhase = .load ∧ b.ldBank = Bank.ofIndex (b.wp / winLen c) <;>
    by_cases hw : b.wp % winLen c = winLen c - 1
  · simp only [setSb, if_pos ha, if_pos hw, strobe_setWp]; rfl
  · simp only [setSb, if_pos ha, if_neg hw]; rfl
  · simp only [setSb, if_neg ha, if_pos hw, strobe_setWp]; rfl
  · simp only [setSb, if_neg ha, if_neg hw]; rfl

theorem blockInv_loadAbort (h : BlockInv c b) : BlockInv c (loadAbort b) :=
  { h with
    load_bank_complete := nofun
    load_index := nofun
    mag_index := nofun
    back_stamp := nofun
    irq_told := told_irq c _ }

/-- Writing a value to one bank of a pair does not take it from the other. -/
theorem get_set_of_get_eq {α : Type} {p : PerBank α} {q : Bank} {v : α} (bank : Bank) (h : p.get q = v) :
    (p.set bank v).get q = v := by
  rw [PerBank.get_set, h, ite_self]

/-- A bank may lose its completeness while it is not being loaded. -/
theorem blockInv_clearBank (h : BlockInv c b) (bank : Bank) (hload : b.engPhase = .load → b.ldBank ≠ bank) :
    BlockInv c { b with bankOk := b.bankOk.set bank false } :=
  { h with
    write_bank_incomplete := fun hr hw => get_set_of_get_eq bank (h.write_bank_incomplete hr hw)
    load_bank_complete := fun hp => by
      rw [PerBank.get_set, if_neg (hload hp)]
      exact h.load_bank_complete hp
    irq_told := told_irq c _ }

theorem blockInv_abortLoadOf (h : BlockInv c b) (bank : Bank) : BlockInv c (abortLoadOf bank b) :=
  iteInduction (motive := BlockInv c) (fun _ => blockInv_loadAbort h) fun _ => h

theorem abortLoadOf_not_loading {bank : Bank} : (abortLoadOf bank b).engPhase = .load →
    (abortLoadOf bank b).ldBank ≠ bank :=
  iteInduction (motive := fun b' : Block => b'.engPhase = .load → b'.ldBank ≠ bank) (fun _ => nofun)
    fun hn hp hb => hn ⟨hp, hb⟩

theorem abortLoadOf_wp (bank : Bank) (b : Block) : (abortLoadOf bank b).wp = b.wp :=
  iteInduction (motive := fun b' : Block => b'.wp = b.wp) (fun _ => rfl) fun _ => rfl

theorem openBank_wp (c : Config) (b : Block) : (openBank c b).wp = b.wp := abortLoadOf_wp _ b

theorem blockInv_openBank (h : BlockInv c b) : BlockInv c (openBank c b) :=
  blockInv_clearBank (blockInv_abortLoadOf h _) _ abortLoadOf_not_loading

theorem openBank_incomplete (c : Config) (b : Block) :
    (openBank c b).bankOk.get (Bank.ofIndex (b.wp / winLen c)) = false :=
  PerBank.get_set_same ..

/-- The write pointer stays in its bank until it comes to the start of the next one. -/
theorem nextWp_div {n wp : Nat} (h : (wp + 1) % (2 * n) % n ≠ 0) (hwp : wp < 2 * n) :
    (wp + 1) % (2 * n) / n = wp / n := by
  have hlt : wp + 1 < 2 * n := by
    refine lt_of_le_of_ne hwp fun he => h ?_
    simp [he]
  rw [Nat.mod_eq_of_lt hlt] at h ⊢
  rw [Nat.succ_div_of_not_dvd fun hd => h (Nat.mod_eq_zero_of_dvd hd)]

theorem nextWp_mod {n wp : Nat} (hn : 0 < n) (h : wp % n = n - 1) : (wp + 1) % (2 * n) % n = 0 := by
  rw [Nat.mod_mod_of_dvd _ (Nat.dvd_mul_left n 2), Nat.add_mod, h]
  rcases Nat.lt_or_eq_of_le hn with h1 | h1
  · rw [Nat.mod_eq_of_lt h1, Nat.sub_add_cancel hn, Nat.mod_self]
  · simp [← h1]

theorem blockInv_storeSample (h : BlockInv c b) (x : Sample)
    (hb : b.bankOk.get (Bank.ofIndex (b.wp / winLen c)) = false) : BlockInv c (storeSample c x b) := by
  obtain ⟨hwp, hop, hwave⟩ := h.indices
  have hset := blockInv_setSb h hwp (lowBits_lt c.sampleBits x)
  exact { hset with
    indices := ⟨Nat.mod_lt _ (Nat.zero_lt_of_lt hwp), hop, hwave⟩
    write_bank_incomplete := fun _ hw => (congrArg (b.bankOk.get <| Bank.ofIndex ·) (nextWp_div hw hwp)).trans hb
    irq_told := told_irq c _ }

/-- A strobe between two windows: the bank it completes is not the one the next sample goes to. -/
theorem blockInv_strobe (h : BlockInv c b) (hw : b.wp % winLen c = 0) (bank : Bank) : BlockInv c (strobe b bank) := by
  rw [strobe_eq]
  exact { h with
    write_bank_incomplete := fun _ hw' => absurd hw hw'
    load_bank_complete := fun hp => get_set_of_get_eq bank (h.load_bank_complete hp)
    irq_told := told_irq c _ }

theorem blockInv_acquire (h : BlockInv c b) (x : Sample) : BlockInv c (acquire c x b) := by
  have hstore := blockInv_storeSample (blockInv_openBank h) x (by rw [openBank_wp]; exact openBank_incomplete c b)
  rw [acquire_eq]
  split
  next hw =>
    refine blockInv_strobe hstore ?_ _
    change ((openBank c b).wp + 1) % (2 * winLen c) % winLen c = 0
    rw [openBank_wp]
    exact nextWp_mod (Nat.two_pow_pos _) hw
  · exact hstore

theorem blockInv_stream (h : BlockInv c b) : BlockInv c (stream c b) := by
  obtain ⟨hwp, hop, hwave⟩ := h.indices
  exact { h with
    indices := ⟨hwp, Nat.mod_lt _ (Nat.zero_lt_of_lt hop), hwave⟩
    irq_told := told_irq c _ }

/-! ### The ENGINE agent -/

theorem blockInv_engStart (h : BlockInv c b) : BlockInv c (engStart b) := by
  refine iteInduction (motive := BlockInv c) (fun hok => ?_) fun _ => ?_
  · obtain ⟨_, hstage⟩ := h.engine_indices
    exact { h with
      load_bank_complete := fun _ => hok
      engine_indices := ⟨Nat.zero_le _, hstage⟩
      load_index := fun _ => Nat.two_pow_pos _
      mag_index := nofun
      back_stamp := nofun
      irq_told := told_irq c _ }
  · exact blockInv_recordSkip { h with irq_told := told_irq c _ }

theorem blockInv_engLoad (h : BlockInv c b) (hp : b.engPhase = .load) : BlockInv c (engLoad c b) := by
  have hi : b.engI < winLen c := h.load_index hp
  obtain ⟨_, hstage, hlast, hq⟩ := h.engine_indices
  have hx := blockInv_setX h (bitrev_lt c.lgN b.engI) (loadWord c (sbAt b (loadIndex c b b.engI)))
  refine iteInduction (motive := BlockInv c) (fun _ => ?_) fun hne => ?_
  · exact { hx with
      load_bank_complete := nofun
      engine_indices := ⟨hi, le_refl 1, le_trans hstage hlast, Nat.zero_lt_of_lt hq⟩
      load_index := nofun
      mag_index := nofun
      back_stamp := nofun
      irq_told := told_irq c _ }
  · exact { hx with
      engine_indices := ⟨hi, hstage, hlast, hq⟩
      load_index := fun _ => lt_of_le_of_ne hi hne
      mag_index := fun hm => by simp [hp] at hm
      irq_told := told_irq c _ }

/-- The back bank is stamped before MAG writes it (R176). -/
theorem blockInv_fftDone (h : BlockInv c b) : BlockInv c (fftDone b) := by
  obtain ⟨_, hstage, hlast, hq⟩ := h.engine_indices
  exact { h with
    load_bank_complete := nofun
    engine_indices := ⟨Nat.zero_le _, hstage, hlast, hq⟩
    load_index := nofun
    mag_index := fun _ => Nat.zero_lt_of_lt hq
    front_stamp := by
      have hother : (b.bankVer.set b.front.other (b.version + 1)).get b.front = b.bankVer.get b.front := by
        rw [PerBank.get_set, if_neg (Bank.ne_other _)]
      exact hother.trans h.front_stamp
    back_stamp := fun _ => PerBank.get_set_same ..
    irq_told := told_irq c _ }

theorem blockInv_fftAdvance (h : BlockInv c b) : BlockInv c (fftAdvance c b) := by
  obtain ⟨hi, hstage, hlast, hq⟩ := h.engine_indices
  refine iteInduction (motive := BlockInv c) (fun hlt => ?_) fun _ => ?_
  · exact { h with
      engine_indices := ⟨hi, hstage, hlast, Nat.add_lt_of_lt_sub hlt⟩
      irq_told := told_irq c _ }
  · refine iteInduction (motive := BlockInv c) (fun hlt => ?_) fun _ => blockInv_fftDone h
    exact { h with
      engine_indices := ⟨hi, Nat.le_add_left 1 _, hlt, Nat.zero_lt_of_lt hq⟩
      irq_told := told_irq c _ }

theorem blockInv_engMag (h : BlockInv c b) (hp : b.engPhase = .mag) : BlockInv c (engMag c b) := by
  have hk : b.engI < binCount c := h.mag_index hp
  obtain ⟨_, hstage⟩ := h.engine_indices
  have hle : binCount c ≤ winLen c := Nat.div_le_self ..
  have hrb := blockInv_setRb h b.front.other hk (magWord c (xAt b b.engI))
  have hstamp := h.back_stamp (.inl hp)
  refine iteInduction (motive := BlockInv c) (fun _ => ?_) fun hne => ?_
  · exact { hrb with
      load_bank_complete := nofun
      engine_indices := ⟨le_trans hk hle, hstage⟩
      load_index := nofun
      mag_index := nofun
      back_stamp := fun _ => hstamp
      irq_told := told_irq c _ }
  · exact { hrb with
      engine_indices := ⟨le_trans hk hle, hstage⟩
      load_index := fun hl => by simp [hp] at hl
      mag_index := fun _ => lt_of_le_of_ne hk hne
      irq_told := told_irq c _ }

/-- A publish turns the stamp of the back bank into that of the front bank. -/
theorem blockInv_engPub (h : BlockInv c b) (hp : b.engPhase = .pub) : BlockInv c (engPub b) :=
  { h with
    load_bank_complete := nofun
    load_index := nofun
    mag_index := nofun
    front_stamp := h.back_stamp (.inr hp)
    back_stamp := nofun
    irq_told := told_irq c _ }

/-! ### The RC agent -/

theorem blockInv_rcWake (h : BlockInv c b) : BlockInv c { consume b 0 with rcState := .check } := by
  obtain ⟨_, _, hsub, _⟩ := ranges_of_configValid h.cfg_valid
  have hslot := blockInv_consume h hsub
  exact { hslot with emit_range := nofun, irq_told := told_irq c _ }

/-- The request moves from the host's registers to the consumer's with its range (R199). -/
theorem blockInv_rcCheck (h : BlockInv c b) : BlockInv c (rcCheck b) := by
  refine iteInduction (motive := BlockInv c) (fun harmed => ?_) fun _ => ?_
  · obtain ⟨hpos, hrange⟩ := h.armed_range harmed
    exact { h with
      armed_range := nofun
      emit_range := fun _ => ⟨hpos, hrange, Nat.zero_le _⟩
      irq_told := told_irq c _ }
  · exact { h with emit_range := nofun, irq_told := told_irq c _ }

theorem toNat_ofNat_le (w n : Nat) : (BitVec.ofNat w n).toNat ≤ n := by
  rw [BitVec.toNat_ofNat]
  exact Nat.mod_le _ _

theorem blockInv_rcData (h : BlockInv c b) (hr : b.rcState = .emit) (hlt : b.rcIdx < b.rcCount.toNat) :
    BlockInv c (rcData b) := by
  obtain ⟨hpos, hrange, _⟩ := h.emit_range hr
  have hbin : b.rcStart.toNat + b.rcIdx < binCount c := lt_of_lt_of_le (Nat.add_lt_add_left hlt _) hrange
  exact { h with
    emit_range := fun _ => ⟨hpos, hrange, hlt⟩
    record_range := by
      rintro _ ⟨⟩
      exact lt_of_le_of_lt (toNat_ofNat_le 14 _) hbin
    irq_told := told_irq c _ }

theorem blockInv_rcEnd (h : BlockInv c b) (hr : b.rcState = .emit) : BlockInv c (rcEnd b) := by
  obtain ⟨_, hrange, _⟩ := h.emit_range hr
  have hrecord : BlockInv c { b with rptOut := some (.fin b.rcCount (slotAt b 0).latVer) } :=
    { h with
      record_range := by
        rintro _ ⟨⟩
        exact le_trans (Nat.le_add_left _ _) hrange
      irq_told := told_irq c _ }
  exact { blockInv_irqSet hrecord irqRptDone with emit_range := nofun, irq_told := told_irq c _ }

/-- An abort emits its record, and arms the request again unless a newer one is armed (R200). -/
theorem rcAbort_eq (b : Block) :
    rcAbort b =
      { (if b.armed then b else { b with reqStart := b.rcStart, reqCount := b.rcCount, armed := true }) with
        rptOut := some (.abort (BitVec.ofNat 14 b.rcIdx) (slotAt b 0).latVer)
        irqStat := b.irqStat ||| irqRptAbort
        rcState := .waiting } := by
  unfold rcAbort
  by_cases ha : b.armed = true
  · simp only [if_pos ha]; rfl
  · simp only [if_neg ha]; rfl

theorem blockInv_rcAbort (h : BlockInv c b) (hr : b.rcState = .emit) : BlockInv c (rcAbort b) := by
  obtain ⟨hpos, hrange, hidx⟩ := h.emit_range hr
  have hrearm : BlockInv c { b with reqStart := b.rcStart, reqCount := b.rcCount, armed := true } :=
    { h with armed_range := fun _ => ⟨hpos, hrange⟩, irq_told := told_irq c _ }
  have hreq := iteInduction (c := b.armed = true) (motive := BlockInv c) (fun _ => h) fun _ => hrearm
  rw [rcAbort_eq]
  exact { hreq with
    emit_range := nofun
    record_range := by
      rintro _ ⟨⟩
      exact le_trans (toNat_ofNat_le 14 _) (le_trans hidx (le_trans (Nat.le_add_left _ _) hrange))
    irq_told := told_irq c _ }

theorem blockInv_rcEmit (h : BlockInv c b) (hr : b.rcState = .emit) : BlockInv c (rcEmit b) :=
  iteInduction (motive := BlockInv c)
    (fun _ => iteInduction (motive := BlockInv c) (blockInv_rcData h hr) fun _ => blockInv_rcEnd h hr)
    fun _ => blockInv_rcAbort h hr

/-! ### The DB agent -/

/-- The debounce delay is loaded whole, counts down to 1, and then the machine is idle (R213, R214). -/
theorem counterInRange_debounce {delay : Nat} (hd : 1 ≤ delay ∧ delay ≤ 65535) {d : DbInput} (h : CounterInRange delay d)
    (te : Bool) : CounterInRange delay (debounce delay d te).1 := by
  obtain ⟨hle, hrun⟩ := h
  have hload : (BitVec.ofNat 16 delay).toNat = delay := by
    rw [BitVec.toNat_ofNat]
    exact Nat.mod_eq_of_lt (by omega)
  unfold debounce
  split
  · split
    · exact ⟨hload.le, fun _ => hload.symm ▸ hd.1⟩
    · exact ⟨hle, hrun⟩
  · split
    · exact ⟨hload.le, fun _ => hload.symm ▸ hd.1⟩
    · split
      · split
        next hone =>
          have hdec : (d.cnt - 1).toNat = d.cnt.toNat - 1 := by bv_omega
          change (d.cnt - 1).toNat ≤ delay ∧ (d.st = .deb → 1 ≤ (d.cnt - 1).toNat)
          rw [hdec]
          exact ⟨by omega, fun _ => by omega⟩
        · exact ⟨hle, nofun⟩
      · exact ⟨hle, hrun⟩

theorem blockInv_pushEvent (h : BlockInv c b) {i : Nat} (hi : i < c.nIn) : BlockInv c (pushEvent b i) := by
  refine iteInduction (motive := BlockInv c) (fun _ => blockInv_recordDrop h) fun _ => ?_
  exact { h with
    event_range := fun _ => ⟨rfl, lt_of_le_of_lt (toNat_ofNat_le 8 i) hi⟩
    irq_told := told_irq c _ }

theorem blockInv_dbInputStep (h : BlockInv c b) (pins : BitVec 16) (te : Bool) {i : Nat} (hi : i < c.nIn) :
    BlockInv c (dbInputStep c pins te b i) := by
  obtain ⟨_, _, _, _, hdelay⟩ := ranges_of_configValid h.cfg_valid
  have hsync : CounterInRange c.dbDelay (syncShift (inputAt b i) (pinAsserted c pins i)) := h.debounce_range i
  have hset := blockInv_setInput h hi (counterInRange_debounce hdelay hsync te)
  rcases dbInputStep_cases c pins te b i with ⟨_, e⟩ | ⟨_, e⟩ <;> rw [e]
  · exact hset
  · exact blockInv_pushEvent hset hi

theorem blockInv_dbInputs (h : BlockInv c b) (pins : BitVec 16) (te : Bool) {n : Nat} (hn : n ≤ c.nIn) :
    BlockInv c (dbInputs c pins te b n) := by
  induction n with
  | zero => exact h
  | succ n ih => exact blockInv_dbInputStep (ih (Nat.le_of_succ_le hn)) pins te hn

/-! ### A step -/

theorem blockInv_agentStep {a : Action} {b' : Block} {evs : List Event} (h : BlockInv c b)
    (hs : AgentStep c b a b' evs) : BlockInv c b' := by
  have hacq (x : Sample) := iteInduction (c := b.acqRun = true) (motive := BlockInv c) (fun _ => blockInv_acquire h x)
    fun _ => h
  cases hs with
  | tick x => exact hacq x
  | streamTick x => exact blockInv_stream (hacq x)
  | engStart => exact blockInv_engStart h
  | engLoad hp => exact blockInv_engLoad h hp
  | engFft _ hb =>
    obtain ⟨_, hstage, hlast, hq⟩ := h.engine_indices
    obtain ⟨htop, hbot⟩ := butterflyAt_lt hstage hlast hq hb
    exact blockInv_fftAdvance (blockInv_setX (blockInv_setX h htop _) hbot _)
  | engMag hp => exact blockInv_engMag h hp
  | engPub hp => exact blockInv_engPub h hp
  | rcWake => exact blockInv_rcWake h
  | rcCheck => exact blockInv_rcCheck h
  | rcEmit hr => exact blockInv_rcEmit h hr
  | rport => exact { h with record_range := nofun, irq_told := told_irq c _ }
  | db pins te => exact blockInv_dbInputs h pins te le_rfl
  | reset => exact blockInv_atReset h.cfg_valid

end

/-- The level that the events of an agent leave told: none of them is an IRQ event. -/
theorem lastIrq_append_of_agentStep {c : Config} {b b' : Block} {a : Action} {evs : List Event}
    (hs : AgentStep c b a b' evs) (trace : List Event) : lastIrq (trace ++ evs) = lastIrq trace := by
  cases hs <;> simp [lastIrq, streamEvent]

/-- The IRQ event at the end of a step keeps the level told (R237). -/
theorem lastIrq_append_irqEvents {trace : List Event} {old : Block} (h : lastIrq trace = irqLevel old) (new : Block) :
    lastIrq (trace ++ irqEvents old new) = irqLevel new := by
  unfold irqEvents
  split
  next he => rw [List.append_nil, h, he]
  · simp [lastIrq]

/-- Settles O46: each kind of step keeps the invariant of the block, and its events tell the interrupt level. -/
theorem stepKeepsInvariant : Obligations.StepKeepsInvariant := by
  intro s t hs h
  obtain ⟨hb, ht⟩ := inv_iff.1 hs
  obtain ⟨_, hcfg, evs, htrace, hkind⟩ := step_effect h
  have hblk : BlockInv s.cfg t.blk ∧ lastIrq (s.trace ++ evs) = lastIrq s.trace := by
    rcases hkind with ⟨he, rfl⟩ | ⟨hhost, rfl⟩ | hagent
    · exact ⟨he ▸ hb, by rw [List.append_nil]⟩
    · exact ⟨blockInv_hostStep hb hhost, by rw [List.append_nil]⟩
    · exact ⟨blockInv_agentStep hb hagent, lastIrq_append_of_agentStep hagent _⟩
  refine inv_iff.2 ⟨hcfg ▸ hblk.1, ?_⟩
  rw [htrace]
  exact lastIrq_append_irqEvents (hblk.2.trans ht) t.blk

/-! ### The fatal bit and the run bits -/

/-- The bits R264 speaks of, fatal and the two paths' run bits, are in `b'` what they are in `b`. -/
def SameRun (b b' : Block) : Prop := b'.fatal = b.fatal ∧ b'.acqRun = b.acqRun ∧ b'.outRun = b.outRun

theorem SameRun.trans {b₁ b₂ b₃ : Block} : SameRun b₁ b₂ → SameRun b₂ b₃ → SameRun b₁ b₃ :=
  fun ⟨hf, ha, ho⟩ ⟨hf', ha', ho'⟩ => ⟨hf'.trans hf, ha'.trans ha, ho'.trans ho⟩

theorem SameRun.ite {b u v : Block} {p : Prop} [Decidable p] (hu : SameRun b u) (hv : SameRun b v) :
    SameRun b (if p then u else v) :=
  iteInduction (fun _ => hu) fun _ => hv

theorem sameRun_strobe (b : Block) (bank : Bank) : SameRun b (strobe b bank) := by
  rw [strobe_eq]
  exact ⟨rfl, rfl, rfl⟩

theorem sameRun_abortLoadOf (bank : Bank) (b : Block) : SameRun b (abortLoadOf bank b) :=
  .ite ⟨rfl, rfl, rfl⟩ ⟨rfl, rfl, rfl⟩

theorem sameRun_setBankOk (b : Block) (ok : PerBank Bool) : SameRun b { b with bankOk := ok } := ⟨rfl, rfl, rfl⟩

theorem sameRun_storeSample (c : Config) (x : Sample) (b : Block) : SameRun b (storeSample c x b) := ⟨rfl, rfl, rfl⟩

theorem sameRun_acquire (c : Config) (x : Sample) (b : Block) : SameRun b (acquire c x b) := by
  have hopen : SameRun b (openBank c b) := (sameRun_abortLoadOf _ b).trans (sameRun_setBankOk _ _)
  have hstore : SameRun b (storeSample c x (openBank c b)) := hopen.trans (sameRun_storeSample c x _)
  rw [acquire_eq]
  exact .ite (hstore.trans (sameRun_strobe _ _)) hstore

theorem sameRun_fftAdvance (c : Config) (b : Block) : SameRun b (fftAdvance c b) :=
  .ite ⟨rfl, rfl, rfl⟩ (.ite ⟨rfl, rfl, rfl⟩ ⟨rfl, rfl, rfl⟩)

theorem sameRun_rcAbort (b : Block) : SameRun b (rcAbort b) := by
  rw [rcAbort_eq]
  exact SameRun.ite (p := b.armed = true) ⟨rfl, rfl, rfl⟩ ⟨rfl, rfl, rfl⟩

theorem sameRun_pushEvent (b : Block) (i : Nat) : SameRun b (pushEvent b i) := .ite ⟨rfl, rfl, rfl⟩ ⟨rfl, rfl, rfl⟩

theorem sameRun_dbInputs (c : Config) (pins : BitVec 16) (te : Bool) (b : Block) (n : Nat) :
    SameRun b (dbInputs c pins te b n) := by
  induction n with
  | zero => exact ⟨rfl, rfl, rfl⟩
  | succ n ih =>
    refine ih.trans ?_
    rw [dbInputs]
    rcases dbInputStep_cases c pins te (dbInputs c pins te b n) n with ⟨_, e⟩ | ⟨_, e⟩ <;> rw [e]
    · exact ⟨rfl, rfl, rfl⟩
    · refine SameRun.trans ?_ (sameRun_pushEvent _ n)
      exact ⟨rfl, rfl, rfl⟩

/-- No agent but HOST and RESET writes the fatal bit or a run bit. -/
theorem sameRun_agentStep {c : Config} {b b' : Block} {a : Action} {evs : List Event} (hs : AgentStep c b a b' evs)
    (ha : a ≠ .reset) : SameRun b b' := by
  have hacq (x : Sample) : SameRun b (if b.acqRun then acquire c x b else b) :=
    .ite (sameRun_acquire c x b) ⟨rfl, rfl, rfl⟩
  cases hs with
  | tick x => exact hacq x
  | streamTick x => exact hacq x
  | engStart => exact .ite ⟨rfl, rfl, rfl⟩ ⟨rfl, rfl, rfl⟩
  | engLoad => exact .ite ⟨rfl, rfl, rfl⟩ ⟨rfl, rfl, rfl⟩
  | engFft =>
    refine SameRun.trans ?_ (sameRun_fftAdvance c _)
    exact ⟨rfl, rfl, rfl⟩
  | engMag => exact .ite ⟨rfl, rfl, rfl⟩ ⟨rfl, rfl, rfl⟩
  | engPub => exact ⟨rfl, rfl, rfl⟩
  | rcWake => exact ⟨rfl, rfl, rfl⟩
  | rcCheck => exact .ite ⟨rfl, rfl, rfl⟩ ⟨rfl, rfl, rfl⟩
  | rcEmit => exact .ite (.ite ⟨rfl, rfl, rfl⟩ ⟨rfl, rfl, rfl⟩) (sameRun_rcAbort b)
  | rport => exact ⟨rfl, rfl, rfl⟩
  | db pins te => exact sameRun_dbInputs c pins te b c.nIn
  | reset => exact absurd rfl ha

/-- A host access neither clears the fatal bit nor, while it is set, starts a path. -/
theorem fatal_hostStep {c : Config} {b b' : Block} (hs : HostStep c b b') (hf : b.fatal = true) :
    b'.fatal = true ∧ (b'.acqRun = true → b.acqRun = true) ∧ (b'.outRun = true → b.outRun = true) := by
  cases hs with
  | acqStart hf' => rw [hf'] at hf; cases hf
  | outStart hf' => rw [hf'] at hf; cases hf
  | failedStart => exact ⟨rfl, nofun, nofun⟩
  | stop => exact ⟨hf, nofun, nofun⟩
  | _ => exact ⟨hf, id, id⟩

/-- Settles O51: only the HOST agent writes the bits, and it refuses a start of a failed block. -/
theorem fatalEndsOnlyAtReset : Obligations.FatalEndsOnlyAtReset := by
  intro s t h
  obtain ⟨_, hcfg, evs, _, hkind⟩ := step_effect h
  refine ⟨hcfg, fun hf hr => ?_⟩
  have hsame : SameRun s.blk t.blk → t.blk.fatal = true ∧ (t.blk.acqRun = true → s.blk.acqRun = true) ∧
      (t.blk.outRun = true → s.blk.outRun = true) :=
    fun ⟨hfatal, hacq, hout⟩ => ⟨hfatal.trans hf, fun h' => hacq ▸ h', fun h' => hout ▸ h'⟩
  rcases hkind with ⟨he, _⟩ | ⟨hhost, _⟩ | hagent
  · exact hsame (he ▸ ⟨rfl, rfl, rfl⟩)
  · exact fatal_hostStep hhost hf
  · exact hsame (sameRun_agentStep hagent hr)

end Sys2Proof.Machine
end

section
/-! The family of spec/20_memory.md: which accesses of the register port answer SLVERR and which OKAY (R62 to R64, R120),
and that a plain read changes nothing (R65). -/

namespace Sys2Proof.Machine

open Sys2Proof

/-! ### The fields of an access key -/

/-- The byte offset of an access key, `addr[19:0]` (spec/30_encoding.md R85). -/
def portAddr (key : AccessKey) : Nat := (key.extractLsb' 0 20).toNat

/-- The access is a write: bit 20 of its key (R85). -/
def isWrite (key : AccessKey) : Bool := key.getLsbD 20

theorem portAddr_lt (key : AccessKey) : portAddr key < 2 ^ 20 := BitVec.isLt _

theorem portAddr_eq_mod (key : AccessKey) : portAddr key = key.toNat % 2 ^ 20 := by simp [portAddr]

/-- A field of the key below the write bit is that field of the byte offset. -/
theorem field_eq_portAddr (key : AccessKey) {hi lo : Nat} (hlo : lo ≤ hi) (hhi : hi < 20) :
    field key hi lo = portAddr key / 2 ^ lo % 2 ^ (hi - lo + 1) := by
  rw [field, portAddr_eq_mod]
  refine Nat.eq_of_testBit_eq fun i => ?_
  simp only [Nat.testBit_mod_two_pow, Nat.testBit_div_two_pow]
  by_cases hi' : i < hi - lo + 1
  · have hbit : lo + i < 20 := by omega
    simp [hbit, Nat.add_comm]
  · simp [hi']

theorem field_writeBit_eq_one_iff (key : AccessKey) : field key 20 20 = 1 ↔ isWrite key = true := by
  simp [field, isWrite, BitVec.getLsbD, Nat.testBit_eq_decide_div_mod_eq]

/-! ### The decoded access, by region of the map (spec/10_state.md R48) -/

/-- A 32-bit access decodes by its byte offset: unaligned ones to nothing, then the result windows, the slot registers
and the fixed registers. -/
theorem decodeKey_eq (key : AccessKey) (data : Word) :
    decodeKey key data =
      if portAddr key % 4 ≠ 0 then none
      else if 0x10000 ≤ portAddr key then
        if isWrite key then none
        else some (decodeResult (portAddr key / 0x10000) (portAddr key % 0x10000 / 4))
      else if 0x80 ≤ portAddr key ∧ portAddr key < 0x100 then
        if isWrite key then none
        else if portAddr key / 4 % 2 = 0 then some (.rdSubStat (BitVec.ofNat 4 ((portAddr key - 0x80) / 8)))
        else some (.rdSubLatver (BitVec.ofNat 4 ((portAddr key - 0x80) / 8)))
      else decodeFixed (isWrite key) (portAddr key / 4) data := by
  have hlt := portAddr_lt key
  have hwrite : (field key 20 20 == 1) = isWrite key := by
    rw [Bool.eq_iff_iff, beq_iff_eq, field_writeBit_eq_one_iff]
  simp (disch := decide) only [decodeKey, hwrite, field_eq_portAddr]
  generalize portAddr key = addr at hlt ⊢
  by_cases hal : addr % 4 = 0
  case neg => simp [hal]
  by_cases hres : 0x10000 ≤ addr
  · have hs : addr / 2 ^ 16 % 2 ^ (19 - 16 + 1) = addr / 0x10000 := by omega
    have hi : addr / 2 ^ 2 % 2 ^ (15 - 2 + 1) = addr % 0x10000 / 4 := by omega
    rw [hs, hi]
    simp [hal, hres, show addr / 0x10000 ≠ 0 by omega]
  have hs : addr / 2 ^ 16 % 2 ^ (19 - 16 + 1) = 0 := by omega
  have hk : addr / 2 ^ 2 % 2 ^ (15 - 2 + 1) = addr / 4 := by omega
  have hslot : addr / 2 ^ 7 % 2 ^ (15 - 7 + 1) = 1 ↔ 0x80 ≤ addr ∧ addr < 0x100 := by omega
  simp only [hs, hk, hslot, hal, hres]
  by_cases h : 0x80 ≤ addr ∧ addr < 0x100
  · have hn : addr / 8 % 16 = (addr - 0x80) / 8 := by omega
    simp [h, hn, hal]
  · simp [h, hal]

/-! ### What each region answers (spec/41_register_access.md R120) -/

/-- BUS_ERROR answers SLVERR, with data 0 on a read, and leaves the block. -/
theorem completes_busError (width : Nat) (key : AccessKey) (data : Word) (s : State) :
    Completes (.busError width key data) s s.blk (if isWrite key then .write .slverr else .read 0 .slverr) := by
  apply completes_of_answer
  simp only [exec, execBusError, field_writeBit_eq_one_iff]
  split <;> rfl

/-- A read of a slot register answers OKAY where the slot exists (R132, R133). -/
theorem State.readSlot_eq_answer (s : State) (n : Nat) (v : Word) :
    s.readSlot n v = s.answer s.blk (if n < s.cfg.nSub then .read v .okay else .read 0 .slverr) := by
  unfold State.readSlot
  split <;> rfl

/-- A read of a result word answers OKAY where the slot and the bin exist (R134). -/
theorem State.readResult_eq_answer (s : State) (n i : Nat) :
    s.readResult n i = s.answer s.blk
      (if 1 ≤ n ∧ n < s.cfg.nSub ∧ i < binCount s.cfg then .read (resWord s.blk n i) .okay else .read 0 .slverr) := by
  unfold State.readResult
  split <;> rfl

/-- The four rows of RES are one read: the row only tells the lowest set bit of the slot number. -/
theorem exec_decodeResult {n i : Nat} (hn : n < 2 ^ 4) (hi : i < 2 ^ 14) (s : State) :
    exec (decodeResult n i) s = .next (s.readResult n i) := by
  have hn' : (BitVec.ofNat 4 n).toNat = n := by simpa using hn
  have hi' : (BitVec.ofNat 14 i).toNat = i := by simpa using hi
  unfold decodeResult
  split_ifs <;> simp only [exec, execRdResSodd, execRdResS2, execRdResS4, execRdResS8, hn', hi']

/-- A read of a fixed register answers OKAY; only EVQ_POP changes the block, and CMD reads as 0. -/
theorem completes_readFixed {k : Nat} (hk : k < 15) (data : Word) (s : State) :
    ∃ i b v, decodeFixed false k data = some i ∧ Completes i s b (.read v .okay) ∧ (k ≠ 10 → b = s.blk) ∧
      (k = 0 → v = 0) := by
  rcases Nat.lt_trichotomy k 10 with hlow | rfl | hhigh
  · interval_cases k <;> exact ⟨_, s.blk, _, rfl, completes_of_answer rfl, by simp, by simp⟩
  · exact ⟨_, _, _, rfl, completes_of_answer rfl, by simp, by simp⟩
  · interval_cases k <;> exact ⟨_, s.blk, _, rfl, completes_of_answer rfl, by simp, by simp⟩

/-- Every write to CMD answers OKAY, whatever its word (R100). -/
theorem completes_wrCmd (data : Word) (s : State) : ∃ b, Completes (.wrCmd data) s b (.write .okay) := by
  suffices ∃ b, execWrCmd data s = .next (s.answer b (.write .okay)) from this.imp fun _ => completes_of_answer
  unfold execWrCmd
  split <;> exact ⟨_, rfl⟩

/-- A write of a writable register answers OKAY. -/
theorem completes_writeFixed {k : Nat} (hk : k = 0 ∨ k = 3 ∨ k = 4 ∨ k = 12) (data : Word) (s : State) :
    ∃ i b, decodeFixed true k data = some i ∧ Completes i s b (.write .okay) := by
  rcases hk with rfl | rfl | rfl | rfl
  · exact ⟨_, (completes_wrCmd data s).imp fun _ h => ⟨rfl, h⟩⟩
  all_goals exact ⟨_, _, rfl, completes_of_answer rfl⟩

theorem decodeFixed_read_unlisted {k : Nat} (hk : 15 ≤ k) (data : Word) : decodeFixed false k data = none := by
  obtain ⟨j, rfl⟩ := Nat.exists_eq_add_of_le' hk
  rfl

theorem decodeFixed_write_readOnly {k : Nat} (hk : k ≠ 0 ∧ k ≠ 3 ∧ k ≠ 4 ∧ k ≠ 12) (data : Word) :
    decodeFixed true k data = none := by
  unfold decodeFixed
  split <;> simp_all

/-! ### A whole access -/

/-- An access that no row of the map matches answers SLVERR. -/
theorem completes_of_decodeKey_none {width : Nat} {key : AccessKey} {data : Word}
    (h : width = 32 → decodeKey key data = none) (s : State) : Completes (decode (.access width key data)) s s.blk
      (if isWrite key then .write .slverr else .read 0 .slverr) := by
  have hd : decode (.access width key data) = .busError width key data := by
    by_cases hw : width = 32
    · simp [decode, decodeAccess, h hw]
    · simp [decode, decodeAccess, hw]
  exact hd ▸ completes_busError width key data s

/-- A 32-bit access that a row matches is that row's instruction. -/
theorem decode_access_of_decodeKey {key : AccessKey} {data : Word} {i : Instr} (h : decodeKey key data = some i) :
    decode (.access 32 key data) = i := by
  simp [decode, decodeAccess, h]

/-- A read in a result window. -/
theorem completes_readWindow {key : AccessKey} (hr : isWrite key = false) (hal : portAddr key % 4 = 0)
    (hres : 0x10000 ≤ portAddr key) (data : Word) (s : State) :
    ∃ v, Completes (decode (.access 32 key data)) s s.blk
      (if portAddr key / 0x10000 < s.cfg.nSub ∧ portAddr key % 0x10000 / 4 < binCount s.cfg then .read v .okay
        else .read 0 .slverr) := by
  have hlt := portAddr_lt key
  have hpos : 1 ≤ portAddr key / 0x10000 := by omega
  rw [decode_access_of_decodeKey (i := decodeResult (portAddr key / 0x10000) (portAddr key % 0x10000 / 4))
    (by simp [decodeKey_eq, hal, hres, hr])]
  refine ⟨resWord s.blk (portAddr key / 0x10000) (portAddr key % 0x10000 / 4), completes_of_answer ?_⟩
  rw [exec_decodeResult (by omega) (by omega), State.readResult_eq_answer]
  simp only [hpos, true_and]

/-- A read of a slot register: SUB_STAT at the even words, SUB_LATVER at the odd ones. -/
theorem completes_readSlotRegister {key : AccessKey} (hr : isWrite key = false) (hal : portAddr key % 4 = 0)
    (hslot : 0x80 ≤ portAddr key ∧ portAddr key < 0x100) (data : Word) (s : State) :
    ∃ v, Completes (decode (.access 32 key data)) s s.blk
      (if (portAddr key - 0x80) / 8 < s.cfg.nSub then .read v .okay else .read 0 .slverr) := by
  have hlow : ¬ 0x10000 ≤ portAddr key := by omega
  have hn : (BitVec.ofNat 4 ((portAddr key - 0x80) / 8)).toNat = (portAddr key - 0x80) / 8 := by
    rw [BitVec.toNat_ofNat]; omega
  by_cases hword : portAddr key / 4 % 2 = 0
  · rw [decode_access_of_decodeKey (i := .rdSubStat (BitVec.ofNat 4 ((portAddr key - 0x80) / 8)))
      (by simp [decodeKey_eq, hal, hlow, hslot, hr, hword])]
    refine ⟨subStatWord s.blk ((portAddr key - 0x80) / 8), completes_of_answer ?_⟩
    simp only [exec, execRdSubStat, State.readSlot_eq_answer, hn]
  · rw [decode_access_of_decodeKey (i := .rdSubLatver (BitVec.ofNat 4 ((portAddr key - 0x80) / 8)))
      (by simp [decodeKey_eq, hal, hlow, hslot, hr, hword])]
    refine ⟨(slotAt s.blk ((portAddr key - 0x80) / 8)).latVer, completes_of_answer ?_⟩
    simp only [exec, execRdSubLatver, State.readSlot_eq_answer, hn]

theorem nSub_le_of_configValid {c : Config} (h : configValid c = true) : c.nSub ≤ 15 := by
  simp only [configValid, between, List.all_cons, List.all_nil, id, Bool.and_eq_true, Nat.ble_eq, and_true] at h
  tauto

/-- The offsets at which the map lists no register (spec/10_state.md R48). -/
def Unlisted (c : Config) (addr : Nat) : Prop :=
  (0x0003C ≤ addr ∧ addr ≤ 0x0007F) ∨ (0x000F8 ≤ addr ∧ addr ≤ 0x0FFFF) ∨ 0xF0000 ≤ addr ∨
    (0x00080 ≤ addr ∧ addr ≤ 0x000F7 ∧ c.nSub ≤ (addr - 0x00080) / 8) ∨
    (0x10000 ≤ addr ∧ (c.nSub ≤ addr / 0x10000 ∨ 2 ^ c.lgN / 2 ≤ addr % 0x10000 / 4))

/-- The offsets other than those of CMD, IRQ_STAT, IRQ_EN and RATE_DIV (spec/20_memory.md R64). -/
def ReadOnly (addr : Nat) : Prop := addr ≠ 0x00000 ∧ addr ≠ 0x0000C ∧ addr ≠ 0x00010 ∧ addr ≠ 0x00030

/-- The writable registers are listed. -/
theorem not_unlisted_of_writable {c : Config} {addr : Nat} (h : ¬ ReadOnly addr) : ¬ Unlisted c addr := by
  unfold ReadOnly at h
  unfold Unlisted
  omega

/-- An aligned read of an unlisted offset is SLVERR. -/
theorem completes_read_unlisted {key : AccessKey} {s : State} (hc : s.cfg.nSub ≤ 15) (hr : isWrite key = false)
    (hal : portAddr key % 4 = 0) (hu : Unlisted s.cfg (portAddr key)) (data : Word) :
    Completes (decode (.access 32 key data)) s s.blk (.read 0 .slverr) := by
  unfold Unlisted at hu
  by_cases hres : 0x10000 ≤ portAddr key
  · obtain ⟨v, h⟩ := completes_readWindow hr hal hres data s
    rwa [if_neg (by rw [binCount]; omega)] at h
  by_cases hslot : 0x80 ≤ portAddr key ∧ portAddr key < 0x100
  · obtain ⟨v, h⟩ := completes_readSlotRegister hr hal hslot data s
    rwa [if_neg (by omega)] at h
  · have hnone : decodeKey key data = none := by
      simp [decodeKey_eq, hal, hres, hslot, hr, decodeFixed_read_unlisted (k := portAddr key / 4) (by omega)]
    simpa [hr] using completes_of_decodeKey_none (fun _ => hnone) s

/-- An aligned read of a listed offset is OKAY. -/
theorem completes_read_listed {key : AccessKey} {s : State} (hr : isWrite key = false)
    (hal : portAddr key % 4 = 0) (hl : ¬ Unlisted s.cfg (portAddr key)) (data : Word) :
    ∃ b v, Completes (decode (.access 32 key data)) s b (.read v .okay) ∧ (portAddr key ≠ 0x28 → b = s.blk) ∧
      (portAddr key = 0 → v = 0) := by
  unfold Unlisted at hl
  by_cases hres : 0x10000 ≤ portAddr key
  · obtain ⟨v, h⟩ := completes_readWindow hr hal hres data s
    rw [if_pos (by rw [binCount]; omega)] at h
    exact ⟨_, v, h, fun _ => rfl, by omega⟩
  by_cases hslot : 0x80 ≤ portAddr key ∧ portAddr key < 0x100
  · obtain ⟨v, h⟩ := completes_readSlotRegister hr hal hslot data s
    rw [if_pos (by omega)] at h
    exact ⟨_, v, h, fun _ => rfl, by omega⟩
  · obtain ⟨i, b, v, hi, h, hb, hv⟩ := completes_readFixed (k := portAddr key / 4) (by omega) data s
    rw [decode_access_of_decodeKey (i := i) (by simp [decodeKey_eq, hal, hres, hslot, hr, hi])]
    exact ⟨b, v, h, fun _ => hb (by omega), fun _ => hv (by omega)⟩

/-- No write of a read-only register is decoded. -/
theorem decodeKey_write_readOnly {key : AccessKey} (hw : isWrite key = true) (ho : ReadOnly (portAddr key))
    (data : Word) : decodeKey key data = none := by
  unfold ReadOnly at ho
  by_cases hal : portAddr key % 4 = 0
  · have hfixed : decodeFixed true (portAddr key / 4) data = none := decodeFixed_write_readOnly (by omega) data
    simp [decodeKey_eq, hw, hfixed]
  · simp [decodeKey_eq, hal]

/-- A write of a writable register is OKAY. -/
theorem completes_write_writable {key : AccessKey} (hw : isWrite key = true) (ho : ¬ ReadOnly (portAddr key))
    (data : Word) (s : State) : ∃ b, Completes (decode (.access 32 key data)) s b (.write .okay) := by
  unfold ReadOnly at ho
  obtain ⟨i, b, hi, h⟩ := completes_writeFixed (k := portAddr key / 4) (by omega) data s
  have hal : portAddr key % 4 = 0 := by omega
  have hres : ¬ 0x10000 ≤ portAddr key := by omega
  have hslot : ¬ 0x80 ≤ portAddr key := by omega
  rw [decode_access_of_decodeKey (i := i) (by simp [decodeKey_eq, hal, hres, hslot, hw, hi])]
  exact ⟨b, h⟩

theorem decodeKey_unaligned {key : AccessKey} (h : portAddr key % 4 ≠ 0) (data : Word) : decodeKey key data = none := by
  rw [decodeKey_eq, if_pos h]

/-- Settles O22: by width and alignment, and then by region of the map for a read and by register for a write. -/
theorem onlyListedAccessesAreOkay : Obligations.OnlyListedAccessesAreOkay := by
  intro width key data s hv addr write unlisted readOnly
  have hbad (h : width = 32 → decodeKey key data = none) :
      Completes (decode (.access width key data)) s s.blk (if write then .write .slverr else .read 0 .slverr) :=
    completes_of_decodeKey_none h s
  by_cases hwidth : width = 32
  case neg => rw [if_pos (.inl hwidth)]; exact hbad fun h => absurd h hwidth
  by_cases hal : addr % 4 = 0
  case neg => rw [if_pos (.inr (.inl hal))]; exact hbad fun _ => decodeKey_unaligned hal data
  subst hwidth
  cases hdir : write with
  | false =>
    by_cases hu : unlisted
    · rw [if_pos (.inr (.inr (.inl hu)))]
      exact completes_read_unlisted (nSub_le_of_configValid hv) hdir hal hu data
    · rw [if_neg (by simp [hal, hu])]
      obtain ⟨b, v, h, hb, hcmd⟩ := completes_read_listed hdir hal hu data
      exact ⟨b, v, h, fun _ => hb, fun _ => hcmd⟩
  | true =>
    by_cases ho : readOnly
    · rw [if_pos (.inr (.inr (.inr ⟨rfl, ho⟩)))]
      simpa [hdir] using hbad fun _ => decodeKey_write_readOnly hdir ho data
    · have hlisted : ¬ unlisted := not_unlisted_of_writable ho
      rw [if_neg (by simp [hal, hlisted, ho])]
      obtain ⟨b, h⟩ := completes_write_writable hdir ho data s
      exact ⟨b, 0, h, nofun, nofun⟩

/-! ### Plain reads (R65) -/

/-- A plain read leaves the block, and its reply depends on the configuration and the block alone. -/
theorem exec_plainRead {i : Instr} (h : plainRead i = true) {s t : State} (hcfg : t.cfg = s.cfg) (hblk : t.blk = s.blk) :
    ∃ rep, exec i s = .next (s.answer s.blk rep) ∧ exec i t = .next (t.answer t.blk rep) := by
  obtain ⟨c, b, _, _, _, _⟩ := s
  obtain ⟨_, _, _, _, _, _⟩ := t
  cases hcfg
  cases hblk
  cases i
  case rdSubStat => exact ⟨_, congrArg _ (State.readSlot_eq_answer ..), congrArg _ (State.readSlot_eq_answer ..)⟩
  case rdSubLatver => exact ⟨_, congrArg _ (State.readSlot_eq_answer ..), congrArg _ (State.readSlot_eq_answer ..)⟩
  case rdResSodd => exact ⟨_, congrArg _ (State.readResult_eq_answer ..), congrArg _ (State.readResult_eq_answer ..)⟩
  case rdResS2 => exact ⟨_, congrArg _ (State.readResult_eq_answer ..), congrArg _ (State.readResult_eq_answer ..)⟩
  case rdResS4 => exact ⟨_, congrArg _ (State.readResult_eq_answer ..), congrArg _ (State.readResult_eq_answer ..)⟩
  case rdResS8 => exact ⟨_, congrArg _ (State.readResult_eq_answer ..), congrArg _ (State.readResult_eq_answer ..)⟩
  all_goals cases h <;> exact ⟨_, rfl, rfl⟩

/-- Settles O23: the second read meets the configuration and the block of the first. -/
theorem plainReadsAreIdempotent : Obligations.PlainReadsAreIdempotent := by
  intro i s t u hi ht hu
  obtain ⟨rep, hs, _⟩ := exec_plainRead hi (s := s) rfl rfl
  cases hs.symm.trans ht
  obtain ⟨rep', hs', hu'⟩ := exec_plainRead hi (s := s) (t := s.answer s.blk rep) rfl rfl
  have hrep : rep' = rep := by simpa [State.answer] using hs'.symm.trans hs
  subst hrep
  cases hu'.symm.trans hu
  exact ⟨rfl, by simp, rfl, _, rfl, by simp⟩

end Sys2Proof.Machine
end

section
/-! The family of spec/30_encoding.md, the codec: the fields of a command word (R80 to R84) and of a byte offset (R85,
R86), and that decoding and encoding are inverse to each other. -/

namespace Sys2Proof.Machine

open Sys2Proof

/-! ### Command words -/

/-- A word is that of its opcode and its operand area (R80). -/
theorem commandWord_eq_of_fields {w : Word} {op rest : Nat} (hop : field w 31 28 = op) (hrest : field w 27 0 = rest) :
    commandWord op rest = w := by
  have hlt := w.isLt
  simp only [field] at hop hrest
  refine BitVec.eq_of_toNat_eq ?_
  rw [commandWord, BitVec.toNat_ofNat]
  omega

/-- A field fits the operand it is read into. -/
theorem toNat_ofNat_field {n : Nat} (v : BitVec n) (hi lo : Nat) :
    (BitVec.ofNat (hi - lo + 1) (field v hi lo)).toNat = field v hi lo := by
  rw [BitVec.toNat_ofNat]
  exact Nat.mod_mod _ _

/-- Settles O2: the fields of a row and the reserved bits that the decoder has found to be 0 make up the word. -/
theorem encodeCommandInvertsDecode : Obligations.EncodeCommandInvertsDecode := by
  intro w
  unfold decodeCommand
  split
  case h_1 hop | h_2 hop | h_3 hop | h_4 hop =>
    split
    next hres => exact commandWord_eq_of_fields hop hres
    next => rfl
  case h_5 hop =>
    split
    next hres =>
      have hwave : (BitVec.ofNat 8 (field w 7 0)).toNat = field w 7 0 := toNat_ofNat_field w 7 0
      refine commandWord_eq_of_fields hop ?_
      rw [hwave]
      simp only [field] at hres ⊢
      omega
    next => rfl
  case h_6 hop =>
    have hstart : (BitVec.ofNat 14 (field w 27 14)).toNat = field w 27 14 := toNat_ofNat_field w 27 14
    have hcount : (BitVec.ofNat 14 (field w 13 0)).toNat = field w 13 0 := toNat_ofNat_field w 13 0
    refine commandWord_eq_of_fields hop ?_
    rw [hstart, hcount]
    simp only [field]
    omega
  case h_7 hop =>
    split
    next hres =>
      have hsub : (BitVec.ofNat 4 (field w 3 0)).toNat = field w 3 0 := toNat_ofNat_field w 3 0
      refine commandWord_eq_of_fields hop ?_
      rw [hsub]
      simp only [field] at hres ⊢
      omega
    next => rfl
  case h_8 hop => exact commandWord_eq_of_fields hop (toNat_ofNat_field w 27 0).symm
  case h_9 => exact commandWord_eq_of_fields (toNat_ofNat_field w 31 28).symm (toNat_ofNat_field w 27 0).symm

theorem toNat_commandWord {op rest : Nat} (hop : op < 16) (hrest : rest < 2 ^ 28) :
    (commandWord op rest).toNat = op * 2 ^ 28 + rest := by
  rw [commandWord, BitVec.toNat_ofNat]
  omega

theorem field_commandWord_opcode {op rest : Nat} (hop : op < 16) (hrest : rest < 2 ^ 28) :
    field (commandWord op rest) 31 28 = op := by
  rw [field, toNat_commandWord hop hrest]
  omega

/-- A field of the operand area does not see the opcode. -/
theorem field_commandWord_operand {op rest hi lo : Nat} (hop : op < 16) (hrest : rest < 2 ^ 28) (hlo : lo ≤ hi)
    (hhi : hi < 28) : field (commandWord op rest) hi lo = rest / 2 ^ lo % 2 ^ (hi - lo + 1) := by
  rw [field, toNat_commandWord hop hrest]
  refine Nat.eq_of_testBit_eq fun i => ?_
  rw [Nat.testBit_mod_two_pow, Nat.testBit_mod_two_pow]
  by_cases hbit : i < hi - lo + 1
  · rw [Nat.testBit_div_two_pow, Nat.testBit_div_two_pow, Nat.mul_comm, Nat.testBit_two_pow_mul_add _ hrest,
      if_pos (by omega)]
  · simp [hbit]

/-- An assigned opcode with a reserved bit set decodes to the illegal command of that word (R83). -/
theorem decodeCommand_of_reservedBitSet {w : Word} (h : reservedBitSet w = true) :
    decodeCommand w = .illegalReservedBits w := by
  unfold reservedBitSet at h
  split at h
  next k hk =>
    rw [bne_iff_ne] at h
    unfold reservedFrom at hk
    split at hk <;> cases hk <;> simp only [decodeCommand, *, if_neg, not_false_eq_true]
  next => cases h

/-- The reserved opcodes from 8 on decode to one row (R84). -/
theorem decodeCommand_of_opcode_ge {w : Word} (h : 8 ≤ field w 31 28) :
    decodeCommand w = .illegalOp8F (BitVec.ofNat 4 (field w 31 28)) (BitVec.ofNat 28 (field w 27 0)) := by
  unfold decodeCommand
  split
  case h_9 => rfl
  all_goals omega

/-- The word of a command decodes to it, if its row describes the command. -/
theorem decodeCommand_encodeCommand {c : Command} (h : c.instr.wf = true) : decodeCommand (encodeCommand c) = c := by
  cases c with
  | nop | acqStart | outStart | stop => rfl
  | selectWave wave =>
    have hlt := wave.isLt
    have hres : wave.toNat / 2 ^ 8 % 2 ^ (27 - 8 + 1) = 0 := by omega
    have hwave : wave.toNat / 2 ^ 0 % 2 ^ (7 - 0 + 1) = wave.toNat := by omega
    simp (disch := omega) only [decodeCommand, encodeCommand, field_commandWord_opcode, field_commandWord_operand, hres,
      hwave, if_true, BitVec.ofNat_toNat, BitVec.setWidth_eq]
  | armReport start count =>
    have hlt := start.isLt
    have hlt' := count.isLt
    have hstart : (start.toNat * 2 ^ 14 + count.toNat) / 2 ^ 14 % 2 ^ (27 - 14 + 1) = start.toNat := by omega
    have hcount : (start.toNat * 2 ^ 14 + count.toNat) / 2 ^ 0 % 2 ^ (13 - 0 + 1) = count.toNat := by omega
    simp (disch := omega) only [decodeCommand, encodeCommand, field_commandWord_opcode, field_commandWord_operand,
      hstart, hcount, BitVec.ofNat_toNat, BitVec.setWidth_eq]
  | subAck sub =>
    have hlt := sub.isLt
    have hres : sub.toNat / 2 ^ 4 % 2 ^ (27 - 4 + 1) = 0 := by omega
    have hsub : sub.toNat / 2 ^ 0 % 2 ^ (3 - 0 + 1) = sub.toNat := by omega
    simp (disch := omega) only [decodeCommand, encodeCommand, field_commandWord_opcode, field_commandWord_operand, hres,
      hsub, if_true, BitVec.ofNat_toNat, BitVec.setWidth_eq]
  | illegalReservedBits w => exact decodeCommand_of_reservedBitSet h
  | illegalOp7 any =>
    have hlt := any.isLt
    have hany : any.toNat / 2 ^ 0 % 2 ^ (27 - 0 + 1) = any.toNat := by omega
    simp (disch := omega) only [decodeCommand, encodeCommand, field_commandWord_opcode, field_commandWord_operand,
      hany, BitVec.ofNat_toNat, BitVec.setWidth_eq]
  | illegalOp8F op any =>
    have hop := op.isLt
    have hlt := any.isLt
    have hany : any.toNat / 2 ^ 0 % 2 ^ (27 - 0 + 1) = any.toNat := by omega
    have hfield : field (encodeCommand (.illegalOp8F op any)) 31 28 = op.toNat := field_commandWord_opcode hop hlt
    have hge : 8 ≤ op.toNat := of_decide_eq_true h
    rw [decodeCommand_of_opcode_ge (hfield ▸ hge), hfield]
    simp (disch := omega) only [encodeCommand, field_commandWord_operand, hany, BitVec.ofNat_toNat, BitVec.setWidth_eq]

theorem decode_command_encodeCommand {c : Command} (h : c.instr.wf = true) :
    decode (.command (encodeCommand c)) = c.instr :=
  congrArg Command.instr (decodeCommand_encodeCommand h)

/-! ### Bus accesses -/

theorem portAddr_readKey {addr : Nat} (h : addr < 2 ^ 20) : portAddr (readKey addr) = addr := by
  rw [portAddr_eq_mod, readKey, BitVec.toNat_ofNat]
  omega

theorem isWrite_readKey (addr : Nat) : isWrite (readKey addr) = false := by
  rw [Bool.eq_false_iff, ne_eq, ← field_writeBit_eq_one_iff, field, readKey, BitVec.toNat_ofNat]
  omega

/-- The read of SUB_STAT of a slot (R86). -/
theorem decode_readAt_subStat (s : BitVec 4) : decode (readAt (0x00080 + 8 * s.toNat)) = .rdSubStat s := by
  have hs := s.isLt
  refine decode_access_of_decodeKey ?_
  rw [decodeKey_eq, isWrite_readKey, portAddr_readKey (by omega), if_neg (by omega), if_neg (by omega),
    if_pos (by omega), if_neg (by decide), if_pos (by omega), show (0x80 + 8 * s.toNat - 0x80) / 8 = s.toNat by omega,
    BitVec.ofNat_toNat, BitVec.setWidth_eq]

/-- The read of SUB_LATVER of a slot (R86). -/
theorem decode_readAt_subLatver (s : BitVec 4) : decode (readAt (0x00084 + 8 * s.toNat)) = .rdSubLatver s := by
  have hs := s.isLt
  refine decode_access_of_decodeKey ?_
  rw [decodeKey_eq, isWrite_readKey, portAddr_readKey (by omega), if_neg (by omega), if_neg (by omega),
    if_pos (by omega), if_neg (by decide), if_neg (by omega), show (0x84 + 8 * s.toNat - 0x80) / 8 = s.toNat by omega,
    BitVec.ofNat_toNat, BitVec.setWidth_eq]

/-- The read of word `i` of the result window of slot `n ≥ 1` (R86). -/
theorem decode_readAt_result {n i : Nat} (hpos : 1 ≤ n) (hn : n < 2 ^ 4) (hi : i < 2 ^ 14) :
    decode (readAt (0x10000 * n + 4 * i)) = decodeResult n i := by
  refine decode_access_of_decodeKey ?_
  rw [decodeKey_eq, isWrite_readKey, portAddr_readKey (by omega), if_neg (by omega), if_pos (by omega),
    if_neg (by decide), show (0x10000 * n + 4 * i) / 0x10000 = n by omega,
    show (0x10000 * n + 4 * i) % 0x10000 / 4 = i by omega]

theorem decodeFixed_isSome (write : Bool) (k : Nat) (data : Word) :
    (decodeFixed write k data).isSome = if write then fixedWritable k else fixedReadable k := by
  cases write with
  | false =>
    by_cases hk : k < 15
    · interval_cases k <;> rfl
    · rw [decodeFixed_read_unlisted (by omega)]
      simpa [fixedReadable] using hk
  | true =>
    by_cases hk : k ≠ 0 ∧ k ≠ 3 ∧ k ≠ 4 ∧ k ≠ 12
    · rw [decodeFixed_write_readOnly hk]
      simpa [fixedWritable, and_assoc] using hk
    · obtain rfl | rfl | rfl | rfl : k = 0 ∨ k = 3 ∨ k = 4 ∨ k = 12 := by omega
      all_goals rfl

/-- The keys that the map admits are those that decode (R85). -/
theorem decodeKey_isSome (key : AccessKey) (data : Word) : (decodeKey key data).isSome = keyListed key := by
  unfold decodeKey keyListed
  by_cases hal : field key 1 0 = 0
  case neg => simp [hal]
  by_cases hs : field key 19 16 = 0
  case neg => cases field key 20 20 == 1 <;> simp [hal, hs]
  by_cases hslot : field key 15 7 = 1
  · cases field key 20 20 == 1 <;> by_cases hword : field key 2 2 = 0 <;> simp [hal, hs, hslot, hword]
  · simp [hal, hs, hslot, decodeFixed_isSome]

theorem wf_of_decodeFixed {write : Bool} {k : Nat} {data : Word} {i : Instr} (h : decodeFixed write k data = some i) :
    i.wf = true := by
  unfold decodeFixed at h
  split at h <;> cases h <;> rfl

/-- The row of a result window is that of the lowest set bit of its slot number, which is not 0 (R85). -/
theorem wf_decodeResult {n : Nat} (hpos : 1 ≤ n) (hn : n < 16) (i : Nat) : (decodeResult n i).wf = true := by
  interval_cases n <;> rfl

theorem wf_of_decodeKey {key : AccessKey} {data : Word} {i : Instr} (h : decodeKey key data = some i) :
    i.wf = true := by
  have hlt := portAddr_lt key
  rw [decodeKey_eq] at h
  split_ifs at h with _ hres
  · cases h
    exact wf_decodeResult (by omega) (by omega) _
  · cases h; rfl
  · cases h; rfl
  · exact wf_of_decodeFixed h

theorem wf_decodeCommand (w : Word) : (decodeCommand w).instr.wf = true := by
  unfold decodeCommand
  split
  case h_6 | h_8 => rfl
  case h_9 =>
    have hop : (BitVec.ofNat 4 (field w 31 28)).toNat = field w 31 28 := toNat_ofNat_field w 31 28
    simp only [imp_false] at *
    simp only [Command.instr, Instr.wf, hop, decide_eq_true_eq]
    omega
  all_goals
    rename_i hop
    split
    · rfl
    next hres => simp [Command.instr, Instr.wf, reservedBitSet, reservedFrom, hop, hres]

/-- Settles O3: a command word by its opcode, an access by whether a row of the map matches it. -/
theorem decodeIsWellFormed : Obligations.DecodeIsWellFormed := by
  intro r
  cases r with
  | command w => exact wf_decodeCommand w
  | access width key data =>
    by_cases hw : width = 32
    · subst hw
      cases hd : decodeKey key data with
      | some i => exact decode_access_of_decodeKey hd ▸ wf_of_decodeKey hd
      | none => simp [decode, decodeAccess, hd, Instr.wf, ← decodeKey_isSome key data]
    · simp [decode, decodeAccess, hw, Instr.wf]

/-- An operand of a result row stands in its field of the offset, and the row is that of its lowest set bit. -/
theorem decode_encode_result (s : BitVec 4) (i : BinWord) (hpos : 1 ≤ s.toNat) :
    decode (readAt (0x10000 * s.toNat + 4 * i.toNat)) =
      if s.toNat % 2 = 1 then .rdResSodd s i else if s.toNat % 4 = 2 then .rdResS2 s i
      else if s.toNat % 8 = 4 then .rdResS4 s i else .rdResS8 s i := by
  rw [decode_readAt_result hpos s.isLt i.isLt]
  simp only [decodeResult, BitVec.ofNat_toNat, BitVec.setWidth_eq]

/-- Settles O1: a command by its word, a register by its offset, and BUS_ERROR as what no row of the map matches. -/
theorem decodeInvertsEncode : Obligations.DecodeInvertsEncode := by
  intro i h
  cases i with
  | selectWave wave => exact decode_command_encodeCommand (c := .selectWave wave) h
  | armReport start count => exact decode_command_encodeCommand (c := .armReport start count) h
  | subAck sub => exact decode_command_encodeCommand (c := .subAck sub) h
  | illegalReservedBits w => exact decode_command_encodeCommand (c := .illegalReservedBits w) h
  | illegalOp7 any => exact decode_command_encodeCommand (c := .illegalOp7 any) h
  | illegalOp8F op any => exact decode_command_encodeCommand (c := .illegalOp8F op any) h
  | rdSubStat s => exact decode_readAt_subStat s
  | rdSubLatver s => exact decode_readAt_subLatver s
  | rdResSodd s i =>
    have hs : s.toNat % 2 = 1 := beq_iff_eq.1 h
    exact (decode_encode_result s i (by omega)).trans (if_pos hs)
  | rdResS2 s i =>
    have hs : s.toNat % 4 = 2 := beq_iff_eq.1 h
    rw [encode, decode_encode_result s i (by omega), if_neg (by omega), if_pos hs]
  | rdResS4 s i =>
    have hs : s.toNat % 8 = 4 := beq_iff_eq.1 h
    rw [encode, decode_encode_result s i (by omega), if_neg (by omega), if_neg (by omega), if_pos hs]
  | rdResS8 s i =>
    have hs : s.toNat = 8 := beq_iff_eq.1 h
    rw [encode, decode_encode_result s i (by omega), if_neg (by omega), if_neg (by omega), if_neg (by omega)]
  | busError width key data =>
    by_cases hw : width = 32
    · have hnone : decodeKey key data = none := by
        simpa [Instr.wf, hw, ← decodeKey_isSome key data] using h
      simp [encode, decode, decodeAccess, hnone]
    · simp [encode, decode, decodeAccess, hw]
  | _ => rfl

/-- Settles O4: each word is the encoding of the command it stands for. -/
theorem workedCommandEncodings : Obligations.WorkedCommandEncodings :=
  ⟨decodeInvertsEncode .nop rfl, decodeInvertsEncode .acqStart rfl, decodeInvertsEncode .outStart rfl,
    decodeInvertsEncode .stop rfl, decodeInvertsEncode (.selectWave 1) rfl, decodeInvertsEncode (.armReport 0 2) rfl,
    decodeInvertsEncode (.armReport 3 4) rfl, decodeInvertsEncode (.armReport 0 128) rfl,
    decodeInvertsEncode (.subAck 1) rfl, decodeInvertsEncode (.illegalReservedBits 0x40000100) rfl,
    decodeInvertsEncode (.illegalOp7 0) rfl, decodeInvertsEncode (.illegalOp8F 0xF 0xFFFFFFF) rfl⟩

end Sys2Proof.Machine
end

section
/-! The family of spec/30_encoding.md, the pseudo-instructions (R94): the access each makes next, what it takes from the
replies, and EVQ_DRAIN performed on the machine. -/

namespace Sys2Proof.Machine

open Sys2Proof

/-! ### The next access -/

theorem getElem?_singleton_eq_ite {α : Type} (a : α) (i : Nat) : [a][i]? = if i = 0 then some a else none := by
  cases i <;> rfl

/-- The word of SUB_ACK is its opcode above its operand (R82). -/
theorem encodeCommand_subAck (s : BitVec 4) : encodeCommand (.subAck s) = 0x6000000#28 ++ s := by
  have hs := s.isLt
  refine BitVec.eq_of_toNat_eq ?_
  rw [encodeCommand, toNat_commandWord (by decide) (by omega), BitVec.toNat_append, ← Nat.shiftLeft_add_eq_or_of_lt hs]
  simp

theorem nextAccess_startAll (seen : List Reply) : nextAccess .startAll seen =
    if seen.length = 0 then some (.command 0x10000000) else if seen.length = 1 then some (.command 0x20000000)
    else none := by
  rcases seen with _ | ⟨_, _ | ⟨_, _⟩⟩ <;> rfl

/-- SUB_READ acknowledges, reads its words in order, and reads SUB_STAT last. -/
theorem nextAccess_subRead (s : BitVec 4) (k n : Nat) (seen : List Reply) : nextAccess (.subRead s k n) seen =
    if seen.length = 0 then some (.command (0x6000000#28 ++ s))
    else if seen.length ≤ n then some (readAt (0x10000 * s.toNat + 4 * (k + (seen.length - 1))))
    else if seen.length = n + 1 then some (readAt (0x00080 + 8 * s.toNat)) else none := by
  rw [← encodeCommand_subAck]
  change (subRead s k n)[seen.length]? = _
  unfold subRead
  cases seen.length with
  | zero => rfl
  | succ m =>
    rw [List.cons_append, List.getElem?_cons_succ, if_neg (Nat.succ_ne_zero m), Nat.add_sub_cancel]
    rcases Nat.lt_or_ge m n with hlt | hge
    · rw [List.getElem?_append_left (by simpa using hlt), List.getElem?_map, List.getElem?_range hlt,
        if_pos (show m + 1 ≤ n from hlt)]
      rfl
    · rw [List.getElem?_append_right (by simpa using hge), List.length_map, List.length_range,
        getElem?_singleton_eq_ite, if_neg (show ¬ m + 1 ≤ n by omega)]
      exact if_congr (by omega) rfl rfl

theorem nextAccess_evqDrain_append (seen : List Reply) (e : Reply) : nextAccess .evqDrain (seen ++ [e]) =
    if (replyData e).getLsbD 31 then some (readAt 0x00028) else none := by
  simp only [nextAccess, evqDrain, List.getLast?_append, List.getLast?_singleton, Option.some_or]
  rfl

/-! ### What SUB_READ takes from its replies -/

theorem subReadValues_complete {n : Nat} (ack t : Reply) {rs : List Reply} (h : rs.length = n) :
    subReadValues n (ack :: rs ++ [t]) = rs.map replyData := by
  subst h
  simp [subReadValues]

theorem subReadOk_complete {n : Nat} (ack t : Reply) {rs : List Reply} (h : rs.length = n) :
    subReadOk n (ack :: rs ++ [t]) = (replyData t).getLsbD 1 := by
  subst h
  simp [subReadOk]

/-! ### EVQ_DRAIN on the machine -/

/-- A host access picked next in a valid configuration is its instruction's meaning. -/
theorem step_withNext_host {s : State} (hv : configValid s.cfg = true) (r : Request) :
    step (s.withNext (.host r)) = exec (decode r) s := by
  rw [step_of_valid (by simpa using hv), State.nextAction_withNext, State.popAction_withNext]
  rfl

/-- A host makes its next access, is answered, and goes on once the other agents have taken their steps. -/
theorem perform_cons_of_answer {p : Pseudo} {gap : List Action} {seen : List Reply} {s v : State} {r : Request}
    {b : Block} {rep : Reply} (hv : configValid s.cfg = true) (hr : nextAccess p seen = some r)
    (hexec : exec (decode r) s = .next (s.answer b rep)) (hgap : runActions gap (s.answer b rep) = .next v)
    (gaps : List (List Action)) : perform p (gap :: gaps) seen s = perform p gaps (seen ++ [rep]) v := by
  simp [perform, hr, step_withNext_host hv, hexec, hgap]

theorem perform_cons_of_done {p : Pseudo} {seen : List Reply} (h : nextAccess p seen = none) (gap : List Action)
    (gaps : List (List Action)) (s : State) :
    perform p (gap :: gaps) seen s = .next { done := true, seen := seen, machine := s } := by
  simp [perform, h]

/-- The entry is read and popped in one step (R128). -/
theorem exec_readAt_evqPop (s : State) : exec (decode (readAt 0x00028)) s =
    .next (s.answer { s.blk with evqValid := false } (.read (evqWord s.blk) .okay)) := rfl

theorem evqWord_of_valid {b : Block} (h : b.evqValid = true) :
    evqWord b = 1#1 ++ 0#15 ++ b.evqEntry.idx ++ b.evqEntry.cls := if_pos h

theorem evqWord_of_empty {b : Block} (h : b.evqValid = false) : evqWord b = 0 := by
  rw [evqWord, h]
  rfl

/-- Bit 31 of EVQ_POP tells whether there is an entry (R56). -/
theorem evqWord_getLsbD_31 (b : Block) : (evqWord b).getLsbD 31 = b.evqValid := by
  cases h : b.evqValid with
  | false => rw [evqWord_of_empty h]; rfl
  | true => rw [evqWord_of_valid h, BitVec.getLsbD_append, BitVec.getLsbD_append, BitVec.getLsbD_append]; rfl

/-- EVQ_DRAIN goes on after an entry, and stops after an empty queue. -/
theorem nextAccess_evqDrain_evqWord (seen : List Reply) (b : Block) :
    nextAccess .evqDrain (seen ++ [.read (evqWord b) .okay]) = if b.evqValid then some (readAt 0x00028) else none := by
  rw [nextAccess_evqDrain_append, replyData, evqWord_getLsbD_31]

theorem perform_evqDrain {s : State} (hv : configValid s.cfg = true) : ∃ u,
    perform .evqDrain [[], []] [] s = .next u ∧ u.done = true ∧ u.machine.blk = { s.blk with evqValid := false } ∧
    u.seen = (if s.blk.evqValid then [.read (1#1 ++ 0#15 ++ s.blk.evqEntry.idx ++ s.blk.evqEntry.cls) .okay] else []) ++
      [.read 0 .okay] := by
  rw [perform_cons_of_answer (seen := []) hv rfl (exec_readAt_evqPop s) (runActions_nil _)]
  cases he : s.blk.evqValid with
  | false =>
    rw [perform_cons_of_done (by rw [nextAccess_evqDrain_evqWord, if_neg (by simp [he])]), evqWord_of_empty he]
    exact ⟨_, rfl, rfl, rfl, rfl⟩
  | true =>
    have hmore : nextAccess .evqDrain ([] ++ [.read (evqWord s.blk) .okay]) = some (readAt 0x00028) := by
      rw [nextAccess_evqDrain_evqWord, if_pos he]
    rw [perform_cons_of_answer (s := s.answer _ _) hv hmore (exec_readAt_evqPop _) (runActions_nil _), perform_nil,
      nextAccess_evqDrain_evqWord, evqWord_of_valid he]
    exact ⟨_, rfl, rfl, rfl, rfl⟩

/-- Settles O59: the accesses of each expansion by position, and EVQ_DRAIN by whether an event is queued. -/
theorem pseudoInstructionsExpand : Obligations.PseudoInstructionsExpand :=
  ⟨nextAccess_startAll, nextAccess_subRead,
    fun _ ack t _ h => ⟨subReadValues_complete ack t h, subReadOk_complete ack t h⟩,
    fun _ _ => getElem?_singleton_eq_ite .., fun _ => rfl, rfl, nextAccess_evqDrain_append,
    fun _ _ => getElem?_singleton_eq_ite .., fun _ _ => getElem?_singleton_eq_ite .., fun _ => perform_evqDrain⟩

end Sys2Proof.Machine
end

section
/-! The family of spec/30_encoding.md, SUB_READ between other agents' steps (R94, R194): what each step does to the
publication channel, and that a latch which is still valid still names the words it latched. -/

namespace Sys2Proof.Machine

open Sys2Proof

/-! ### The publication channel -/

/-- What a subscriber's read depends on: the banks and their stamps, the front bank and its version
(spec/10_state.md R37 to R39), and the slots (R40). -/
structure Channel where
  rb : PerBank (Memory Word)
  front : Bank
  version : Word
  bankVer : PerBank Word
  slots : Memory Latch

def channel (b : Block) : Channel :=
  { rb := b.rb, front := b.front, version := b.version, bankVer := b.bankVer, slots := b.slots }

theorem rbAt_of_channel {b b' : Block} (h : channel b' = channel b) (bank : Bank) (k : Nat) :
    rbAt b' bank k = rbAt b bank k :=
  congrArg (fun ch : Channel => (ch.rb.get bank).get 0 k) h

theorem slotAt_of_channel {b b' : Block} (h : channel b' = channel b) (n : Nat) : slotAt b' n = slotAt b n :=
  congrArg (fun ch : Channel => ch.slots.get Latch.atReset n) h

theorem version_of_channel {b b' : Block} (h : channel b' = channel b) : b'.version = b.version :=
  congrArg Channel.version h

theorem bankVer_of_channel {b b' : Block} (h : channel b' = channel b) : b'.bankVer = b.bankVer :=
  congrArg Channel.bankVer h

theorem channel_ite {p : Prop} [Decidable p] {b u v : Block} (hu : channel u = channel b) (hv : channel v = channel b) :
    channel (if p then u else v) = channel b :=
  iteInduction (motive := fun b' => channel b' = channel b) (fun _ => hu) fun _ => hv

/-- What one step that is no RESET can do to the channel. -/
inductive ChannelStep (a : Action) (b b' : Block) : Prop
  | same (h : channel b' = channel b)
  /-- fft_done() stamps the back bank with the version to come (spec/43_transform.md R176). -/
  | stamp (h : channel b' = channel { b with bankVer := b.bankVer.set b.front.other (b.version + 1) })
  /-- ENG_MAG writes a word of the back bank (R178). -/
  | word (hp : b.engPhase = .mag) (k : Nat) (v : Word) (h : channel b' = channel (setRb b b.front.other k v))
  /-- ENG_PUB (R183). -/
  | publish (h : channel b' = channel { b with front := b.front.other, version := b.version + 1 })
  /-- The report consumer wakes (spec/44_publication_report.md R198). -/
  | wake (h : channel b' = channel (consume b 0))
  /-- A host acknowledges (spec/40_host_commands.md R107). -/
  | ack {r : Request} {sub : BitVec 4} (ha : a = .host r) (hr : asCommand (decode r) = some (.subAck sub))
      (h : channel b' = channel (consume b sub.toNat))

/-! ### The HOST agent -/

theorem channel_acqStartEffect (c : Config) (b : Block) : channel (acqStartEffect c b).1 = channel b := by
  unfold acqStartEffect
  split_ifs <;> rfl

theorem channel_outStartEffect (c : Config) (b : Block) : channel (outStartEffect c b).1 = channel b := by
  unfold outStartEffect
  split_ifs <;> rfl

theorem channel_selectWaveEffect (c : Config) (wave : BitVec 8) (b : Block) :
    channel (selectWaveEffect c wave b).1 = channel b := by
  unfold selectWaveEffect
  split_ifs <;> rfl

theorem channel_armReportEffect (c : Config) (start count : BinWord) (b : Block) :
    channel (armReportEffect c start count b).1 = channel b := by
  unfold armReportEffect
  split_ifs <;> rfl

theorem channel_subAckEffect (c : Config) (sub : BitVec 4) (b : Block) :
    channel (subAckEffect c sub b).1 = channel b ∨
      channel (subAckEffect c sub b).1 = channel (consume b sub.toNat) := by
  unfold subAckEffect
  split
  · exact .inl rfl
  · exact .inr rfl

/-- A write to CMD is the instruction of its command word (spec/40_host_commands.md R100). -/
theorem execWrCmd_eq (data : Word) (s : State) : execWrCmd data s = exec (decodeCommand data).instr s := by
  unfold execWrCmd
  cases decodeCommand data <;> rfl

theorem exec_eq_of_asCommand {i : Instr} {c : Command} (h : asCommand i = some c) (s : State) :
    exec i s = exec c.instr s := by
  cases i with
  | wrCmd data => cases h; exact execWrCmd_eq data s
  | _ => cases h <;> rfl

/-- A command leaves the channel, or it is SUB_ACK and consumes or is refused. -/
theorem channel_of_exec_command {c : Command} {s t : State} (h : exec c.instr s = .next t) :
    channel t.blk = channel s.blk ∨ ∃ sub, c = .subAck sub ∧ channel t.blk = channel (consume s.blk sub.toNat) := by
  cases c with
  | subAck sub =>
    cases h
    exact (channel_subAckEffect s.cfg sub s.blk).imp id fun he => ⟨sub, rfl, he⟩
  | acqStart => cases h; exact .inl (channel_acqStartEffect ..)
  | outStart => cases h; exact .inl (channel_outStartEffect ..)
  | selectWave wave => cases h; exact .inl (channel_selectWaveEffect ..)
  | armReport start count => cases h; exact .inl (channel_armReportEffect ..)
  | _ => cases h; exact .inl rfl

/-- An access that asks for no command leaves the channel. -/
theorem channel_of_exec_register {i : Instr} (hi : asCommand i = none) {s t : State} (h : exec i s = .next t) :
    channel t.blk = channel s.blk := by
  cases i with
  | rdSubStat n | rdSubLatver n => cases h; rw [State.readSlot_blk]
  | rdResSodd n k | rdResS2 n k | rdResS4 n k | rdResS8 n k => cases h; rw [State.readResult_blk]
  | busError width key data =>
    change Host.Outcome.next (if field key 20 20 = 1 then s.writeError else s.readError) = .next t at h
    split at h <;> cases h <;> rfl
  | _ => cases hi <;> (cases h; rfl)

theorem channelStep_of_exec {r : Request} {s t : State} (h : exec (decode r) s = .next t) :
    ChannelStep (.host r) s.blk t.blk := by
  cases hc : asCommand (decode r) with
  | none => exact .same (channel_of_exec_register hc h)
  | some c =>
    rw [exec_eq_of_asCommand hc] at h
    rcases channel_of_exec_command h with he | ⟨sub, rfl, he⟩
    · exact .same he
    · exact .ack rfl hc he

/-! ### The other agents -/

theorem channel_acquire (c : Config) (x : Sample) (b : Block) : channel (acquire c x b) = channel b := by
  have hopen : channel (storeSample c x (openBank c b)) = channel b :=
    channel_ite (p := b.engPhase = .load ∧ b.ldBank = _) rfl rfl
  rw [acquire_eq]
  refine channel_ite ?_ hopen
  rw [strobe_eq]
  exact hopen

theorem channel_pushEvent (b : Block) (i : Nat) : channel (pushEvent b i) = channel b := channel_ite rfl rfl

theorem channel_dbInputs (c : Config) (pins : BitVec 16) (te : Bool) (b : Block) (n : Nat) :
    channel (dbInputs c pins te b n) = channel b := by
  induction n with
  | zero => rfl
  | succ n ih =>
    rw [dbInputs]
    rcases dbInputStep_cases c pins te (dbInputs c pins te b n) n with ⟨_, e⟩ | ⟨_, e⟩ <;> rw [e]
    · exact ih
    · exact (channel_pushEvent _ n).trans ih

theorem channel_rcEmit (b : Block) : channel (rcEmit b) = channel b := by
  refine channel_ite (channel_ite rfl rfl) ?_
  rw [rcAbort_eq]
  exact channel_ite (p := b.armed = true) rfl rfl

theorem channelStep_of_agentStep {c : Config} {a : Action} {b b' : Block} {evs : List Event}
    (hs : AgentStep c b a b' evs) (ha : a ≠ .reset) : ChannelStep a b b' := by
  have htick (x : Sample) : channel (if b.acqRun then acquire c x b else b) = channel b :=
    channel_ite (channel_acquire c x b) rfl
  cases hs with
  | tick x => exact .same (htick x)
  | streamTick x => exact .same (htick x)
  | engStart => exact .same (channel_ite rfl rfl)
  | engLoad => exact .same (channel_ite rfl rfl)
  | engFft =>
    refine iteInduction (motive := ChannelStep .engine b) (fun _ => .same rfl) fun _ => ?_
    exact iteInduction (motive := ChannelStep .engine b) (fun _ => .same rfl) fun _ => .stamp rfl
  | engMag hp => exact .word hp b.engI (magWord c (xAt b b.engI)) (channel_ite rfl rfl)
  | engPub => exact .publish rfl
  | rcWake => exact .wake rfl
  | rcCheck => exact .same (channel_ite rfl rfl)
  | rcEmit => exact .same (channel_rcEmit b)
  | rport => exact .same rfl
  | db pins te => exact .same (channel_dbInputs ..)
  | reset => exact absurd rfl ha

theorem channelStep_of_step {s t : State} {a : Action} (h : step (s.withNext a) = .next t) (ha : a ≠ .reset) :
    ChannelStep a s.blk t.blk := by
  obtain ⟨_, ⟨r, b, rep, hn, hexec, _⟩ | ⟨_, ⟨b, evs, hm, rfl⟩ | ⟨_, rfl⟩⟩⟩ := step_cases h
  · cases hn
    exact channelStep_of_exec hexec
  · exact channelStep_of_agentStep (agentStep_of_agentMove hm) ha
  · exact .same rfl

/-! ### A valid latch -/

theorem validFlag_iff (b : Block) (n : Nat) :
    validFlag b n = true ↔ b.bankVer.get (slotAt b n).latBank = (slotAt b n).latVer := by
  simp [validFlag]

theorem validFlag_of_bankVer {b b' : Block} {n : Nat} (hslot : slotAt b' n = slotAt b n)
    (hver : b'.bankVer = b.bankVer) : validFlag b' n = validFlag b n := by
  rw [validFlag, validFlag, hslot, hver]

/-- If a latch is valid after a step that does not consume for its slot, it was valid before and no word of its bank has
changed: the back bank, which alone is written, has by then the stamp of a version that is not out yet (R176, R194). -/
theorem validLatch_of_channelStep {s : State} {a : Action} {b' : Block} {n : Nat} (hi : Inv s)
    (h : ChannelStep a s.blk b') (hslot : slotAt b' n = slotAt s.blk n)
    (hver : (slotAt s.blk n).latVer ≠ s.blk.version + 1) (hvalid : validFlag b' n = true) :
    validFlag s.blk n = true ∧
      ∀ k, rbAt b' (slotAt s.blk n).latBank k = rbAt s.blk (slotAt s.blk n).latBank k := by
  have hkept (hb : b'.bankVer = s.blk.bankVer) : validFlag s.blk n = true := validFlag_of_bankVer hslot hb ▸ hvalid
  cases h with
  | same h | publish h | wake h | ack _ _ h => exact ⟨hkept (bankVer_of_channel h :), (rbAt_of_channel h _ :)⟩
  | stamp h =>
    rw [validFlag_iff, hslot, bankVer_of_channel h, PerBank.get_set] at hvalid
    split at hvalid
    · exact absurd hvalid.symm hver
    · exact ⟨(validFlag_iff ..).2 hvalid, rbAt_of_channel h _⟩
  | word hp j v h =>
    have hbefore : validFlag s.blk n = true := hkept (bankVer_of_channel h :)
    have hbank : (slotAt s.blk n).latBank ≠ s.blk.front.other := fun hb =>
      hver (by rw [← (validFlag_iff ..).1 hbefore, hb, hi.back_stamp (.inl hp)])
    refine ⟨hbefore, fun k => ?_⟩
    rw [rbAt_of_channel h, rbAt_setRb, if_neg fun hk => hbank hk.1]

theorem version_of_channelStep {a : Action} {b b' : Block} (h : ChannelStep a b b') :
    b'.version = b.version ∨ b'.version = b.version + 1 := by
  cases h with
  | publish h => exact .inr (version_of_channel h)
  | same h | stamp h | wake h | word _ _ _ h | ack _ _ h => exact .inl (version_of_channel h :)

/-- A step that a SUB_READ of slot `sub` lets the other agents take: no RESET, and no consumption by the slot. -/
def Quiet (sub : BitVec 4) (a : Action) : Prop :=
  a ≠ .reset ∧ ∀ r, a = .host r → asCommand (decode r) ≠ some (.subAck sub)

/-- Only a wake of the report consumer writes slot 0, and only its own SUB_ACK another slot. -/
theorem slotAt_of_channelStep {sub : BitVec 4} (hpos : 1 ≤ sub.toNat) {a : Action} (hq : Quiet sub a) {b b' : Block}
    (h : ChannelStep a b b') : slotAt b' sub.toNat = slotAt b sub.toNat := by
  cases h with
  | same h | stamp h | publish h | word _ _ _ h => exact slotAt_of_channel h _
  | wake h => rw [slotAt_of_channel h, slotAt_consume, if_neg (by omega)]
  | @ack r sub' ha hr h =>
    have hne : sub.toNat ≠ sub'.toNat := fun he => hq.2 r ha (BitVec.eq_of_toNat_eq he ▸ hr)
    rw [slotAt_of_channel h, slotAt_consume, if_neg hne]

/-! ### The steps between the accesses of a SUB_READ -/

/-- Slot `n` holds the latch that it took of the machine `s₀`, since when there have been at most `m` publishes, and
while that latch is valid the bank it names is as it was. -/
structure LatchedSince (s₀ : State) (n m : Nat) (s : State) : Prop where
  inv : Inv s
  cfg : s.cfg = s₀.cfg
  latch : slotAt s.blk n = { seenVer := s₀.blk.version, latBank := s₀.blk.front, latVer := s₀.blk.version }
  publishes : ∃ d ≤ m, s.blk.version = s₀.blk.version + BitVec.ofNat 32 d
  words : validFlag s.blk n = true → ∀ k, rbAt s.blk s₀.blk.front k = rbAt s₀.blk s₀.blk.front k

theorem inv_withNext {s : State} (h : Inv s) (a : Action) : Inv (s.withNext a) :=
  let ⟨hb, hirq⟩ := inv_iff.1 h
  inv_iff.2 ⟨hb, hirq⟩

/-- The version does not come back to an old value before 2^32 publishes (spec/70_reset_and_hazards.md R267). -/
theorem ne_add_ofNat (v : Word) {d : Nat} (hpos : 1 ≤ d) (hd : d < 2 ^ 32) : v ≠ v + BitVec.ofNat 32 d := by
  bv_omega

/-- One quiet step keeps the latch; the latch is not valid after it unless it was before. -/
theorem latchedSince_step {s₀ : State} {sub : BitVec 4} {m : Nat} {s t : State} {a : Action} (hpos : 1 ≤ sub.toNat)
    (h : LatchedSince s₀ sub.toNat m s) (hm : m + 1 < 2 ^ 32) (hq : Quiet sub a) (hs : step (s.withNext a) = .next t) :
    LatchedSince s₀ sub.toNat (m + 1) t ∧ (validFlag t.blk sub.toNat = true → validFlag s.blk sub.toNat = true) := by
  obtain ⟨_, hcfg, _⟩ := step_effect hs
  obtain ⟨d, hd, hver⟩ := h.publishes
  have hch := channelStep_of_step hs hq.1
  have hslot := slotAt_of_channelStep hpos hq hch
  have hnext : s.blk.version + 1 = s₀.blk.version + BitVec.ofNat 32 (d + 1) := by
    rw [hver, BitVec.ofNat_add, BitVec.add_assoc]; rfl
  have hold : (slotAt s.blk sub.toNat).latVer ≠ s.blk.version + 1 := by
    rw [h.latch, hnext]
    exact ne_add_ofNat _ (by omega) (by omega)
  have hvalid := validLatch_of_channelStep h.inv hch hslot hold
  refine ⟨{
    inv := stepKeepsInvariant _ _ (inv_withNext h.inv a) hs
    cfg := hcfg.trans h.cfg
    latch := hslot.trans h.latch
    publishes := ?_
    words := fun hv k => ?_ }, fun hv => (hvalid hv).1⟩
  · rcases version_of_channelStep hch with hv | hv
    · exact ⟨d, by omega, hv.trans hver⟩
    · exact ⟨d + 1, by omega, hv.trans hnext⟩
  · obtain ⟨hbefore, hsame⟩ := hvalid hv
    rw [h.latch] at hsame
    exact (hsame k).trans (h.words hbefore k)

theorem latchedSince_runActions {s₀ : State} {sub : BitVec 4} (hpos : 1 ≤ sub.toNat) {gap : List Action}
    (hq : ∀ a ∈ gap, Quiet sub a) {m : Nat} {s v : State} (h : LatchedSince s₀ sub.toNat m s)
    (hm : m + gap.length < 2 ^ 32) (hrun : runActions gap s = .next v) :
    LatchedSince s₀ sub.toNat (m + gap.length) v ∧
      (validFlag v.blk sub.toNat = true → validFlag s.blk sub.toNat = true) := by
  induction gap generalizing m s with
  | nil => cases hrun; exact ⟨h, id⟩
  | cons a gap ih =>
    rw [List.length_cons] at hm ⊢
    obtain ⟨t, hstep, hrest⟩ := runActions_cons_next hrun
    obtain ⟨ht, hback⟩ := latchedSince_step hpos h (by omega) (hq a List.mem_cons_self) hstep
    obtain ⟨hv, hback'⟩ := ih (fun a' ha' => hq a' (List.mem_cons_of_mem _ ha')) ht (by omega) hrest
    exact ⟨by rwa [Nat.add_right_comm, Nat.add_assoc] at hv, hback ∘ hback'⟩

/-! ### The accesses of a SUB_READ -/

/-- The acknowledgement of a host slot (R107). -/
theorem exec_subAck {s : State} {sub : BitVec 4} (hpos : 1 ≤ sub.toNat) (hsub : sub.toNat < s.cfg.nSub) :
    exec (.subAck sub) s = .next (s.answer (respond (consume s.blk sub.toNat) 0x6 codeOk) (.write .okay)) := by
  have hne : sub ≠ 0 := by rintro rfl; exact absurd hpos (by decide)
  have heffect : subAckEffect s.cfg sub s.blk = (consume s.blk sub.toNat, codeOk) :=
    if_neg (not_or.2 ⟨hne, by omega⟩)
  rw [exec, execSubAck, heffect]
  rfl

/-- A read of a result word that exists (R134). -/
theorem exec_readAt_result {s : State} (hv : configValid s.cfg = true) {n i : Nat} (hpos : 1 ≤ n) (hn : n < s.cfg.nSub)
    (hi : i < binCount s.cfg) :
    exec (decode (readAt (0x10000 * n + 4 * i))) s = .next (s.answer s.blk (.read (resWord s.blk n i) .okay)) := by
  have hsub := nSub_le_of_configValid hv
  obtain ⟨⟨_, hl⟩, _⟩ := ranges_of_configValid hv
  have hbins : binCount s.cfg ≤ 2 ^ 14 / 2 := Nat.div_le_div_right (Nat.pow_le_pow_right (by decide) hl)
  rw [decode_readAt_result hpos (by omega) (by omega), exec_decodeResult (by omega) (by omega),
    State.readResult_eq_answer, if_pos ⟨hpos, hn, hi⟩]

/-- A read of SUB_STAT of a slot that exists (R132). -/
theorem exec_readAt_subStat {s : State} {sub : BitVec 4} (hsub : sub.toNat < s.cfg.nSub) :
    exec (decode (readAt (0x00080 + 8 * sub.toNat))) s =
      .next (s.answer s.blk (.read (subStatWord s.blk sub.toNat) .okay)) := by
  rw [decode_readAt_subStat, exec, execRdSubStat, State.readSlot_eq_answer, if_pos hsub]

/-- Bit 1 of SUB_STAT is VALID (spec/10_state.md R54). -/
theorem subStatWord_getLsbD_1 (b : Block) (n : Nat) : (subStatWord b n).getLsbD 1 = validFlag b n := by
  rw [subStatWord, BitVec.getLsbD_append, BitVec.getLsbD_append]
  simp

theorem nextAccess_subRead_word (sub : BitVec 4) (k : Nat) {n : Nat} (ack : Reply) {rs : List Reply}
    (h : rs.length < n) :
    nextAccess (.subRead sub k n) (ack :: rs) = some (readAt (0x10000 * sub.toNat + 4 * (k + rs.length))) := by
  rw [nextAccess_subRead, List.length_cons, if_neg (Nat.succ_ne_zero _),
    if_pos (show rs.length + 1 ≤ n from h), Nat.add_sub_cancel]

theorem nextAccess_subRead_last (sub : BitVec 4) (k : Nat) {n : Nat} (ack : Reply) {rs : List Reply}
    (h : rs.length = n) :
    nextAccess (.subRead sub k n) (ack :: rs) = some (readAt (0x00080 + 8 * sub.toNat)) := by
  rw [nextAccess_subRead, List.length_cons, if_neg (Nat.succ_ne_zero _), if_neg (by omega), if_pos (by omega)]

theorem nextAccess_subRead_done (sub : BitVec 4) (k : Nat) {n : Nat} (ack t : Reply) {rs : List Reply}
    (h : rs.length = n) : nextAccess (.subRead sub k n) (ack :: rs ++ [t]) = none := by
  rw [nextAccess_subRead, List.length_append, List.length_cons, List.length_singleton, if_neg (by omega),
    if_neg (by omega), if_neg (by omega)]

/-- A host whose access is answered goes on from there. -/
theorem perform_cons_next_of_answer {p : Pseudo} {gap : List Action} {gaps : List (List Action)} {seen : List Reply}
    {s : State} {u : HostRun} {r : Request} {b : Block} {rep : Reply} (hv : configValid s.cfg = true)
    (hr : nextAccess p seen = some r) (hexec : exec (decode r) s = .next (s.answer b rep))
    (h : perform p (gap :: gaps) seen s = .next u) :
    ∃ v, runActions gap (s.answer b rep) = .next v ∧ perform p gaps (seen ++ [rep]) v = .next u := by
  rcases perform_cons_next h with ⟨hnone, _⟩ | ⟨r', t, v, hr', hstep, hgap, hrest⟩
  · rw [hr] at hnone; cases hnone
  · cases hr.symm.trans hr'
    rw [step_withNext_host hv, hexec] at hstep
    cases hstep
    exact ⟨v, hgap, by simpa using hrest⟩

theorem perform_next_of_done {p : Pseudo} {gaps : List (List Action)} {seen : List Reply} {s : State} {u : HostRun}
    (hnone : nextAccess p seen = none) (h : perform p gaps seen s = .next u) : u.seen = seen := by
  cases gaps with
  | nil => cases h; rfl
  | cons gap gaps => rw [perform_cons_of_done hnone] at h; cases h; rfl

/-- A read that the host makes leaves what it has latched. -/
theorem latchedSince_read {s₀ : State} {n m : Nat} {s : State} (h : LatchedSince s₀ n m s) (rep : Reply) :
    LatchedSince s₀ n m (s.answer s.blk rep) :=
  let ⟨hb, hirq⟩ := inv_iff.1 h.inv
  { h with inv := inv_iff.2 ⟨hb, by simpa using hirq⟩ }

/-- The words of the result that was in front on `s₀`, from bin `k` on. -/
def frontWords (s₀ : State) (k n : Nat) : List Word := (List.range n).map (fun j => rbAt s₀.blk s₀.blk.front (k + j))

theorem frontWords_succ (s₀ : State) (k n : Nat) :
    frontWords s₀ k (n + 1) = frontWords s₀ k n ++ [rbAt s₀.blk s₀.blk.front (k + n)] := by
  simp [frontWords, List.range_succ]

/-- The words `rs` that the host has read since its acknowledgement on `s₀` are those of the result that was in front
then, unless the latch has become invalid. -/
structure ReadSince (s₀ : State) (n k m : Nat) (rs : List Reply) (s : State) : Prop extends LatchedSince s₀ n m s where
  read : validFlag s.blk n = true → rs.map replyData = frontWords s₀ k rs.length

section

variable {s₀ : State} {sub : BitVec 4} {k n : Nat} (hpos : 1 ≤ sub.toNat) (hsub : sub.toNat < s₀.cfg.nSub)
  (hrange : k + n ≤ binCount s₀.cfg)

include hpos in
/-- One more word, and the steps that the other agents take after it. -/
theorem readSince_word {m : Nat} {rs : List Reply} {s v : State} (h : ReadSince s₀ sub.toNat k m rs s)
    {gap : List Action} (hq : ∀ a ∈ gap, Quiet sub a) (hm : m + gap.length < 2 ^ 32) {rep : Reply}
    (hrep : rep = .read (resWord s.blk sub.toNat (k + rs.length)) .okay)
    (hgap : runActions gap (s.answer s.blk rep) = .next v) :
    ReadSince s₀ sub.toNat k (m + gap.length) (rs ++ [rep]) v := by
  obtain ⟨hlatched, hback⟩ := latchedSince_runActions hpos hq (latchedSince_read h.toLatchedSince rep) hm hgap
  refine { hlatched with read := fun hvalid => ?_ }
  have hword : replyData rep = rbAt s₀.blk s₀.blk.front (k + rs.length) := by
    rw [hrep, replyData, resWord, h.latch, h.words (hback hvalid)]
  rw [List.map_append, h.read (hback hvalid), List.length_append, List.length_singleton, frontWords_succ, ← hword]
  rfl

include hpos hsub hrange in
/-- What a host ends with that has read the words `rs` so far, if its last access shows the latch valid. -/
theorem subReadValues_of_perform {gaps : List (List Action)} (hq : ∀ a ∈ gaps.flatten, Quiet sub a) {m : Nat}
    (hm : m + gaps.flatten.length < 2 ^ 32) {ack : Reply} {rs : List Reply} (hlen : rs.length ≤ n) {s : State}
    (h : ReadSince s₀ sub.toNat k m rs s) {u : HostRun} (hp : perform (.subRead sub k n) gaps (ack :: rs) s = .next u)
    (hdone : u.done = true) (hok : subReadOk n u.seen = true) : subReadValues n u.seen = frontWords s₀ k n := by
  induction gaps generalizing m rs s with
  | nil =>
    cases hp
    rcases Nat.lt_or_eq_of_le hlen with hlt | heq
    · simp [nextAccess_subRead_word sub k ack hlt] at hdone
    · simp [nextAccess_subRead_last sub k ack heq] at hdone
  | cons gap gaps ih =>
    rw [List.flatten_cons] at hq hm
    rw [List.length_append] at hm
    have hv := h.inv.cfg_valid
    rcases Nat.lt_or_eq_of_le hlen with hlt | heq
    · obtain ⟨v, hgap, hrest⟩ := perform_cons_next_of_answer hv (nextAccess_subRead_word sub k ack hlt)
        (exec_readAt_result hv hpos (h.cfg ▸ hsub) (by rw [h.cfg]; omega)) hp
      have hread := readSince_word hpos h (fun a ha => hq a (List.mem_append_left _ ha)) (by omega) rfl hgap
      exact ih (fun a ha => hq a (List.mem_append_right _ ha)) (by omega) (by simpa using hlt) hread hrest
    · obtain ⟨v, _, hrest⟩ := perform_cons_next_of_answer hv (nextAccess_subRead_last sub k ack heq)
        (exec_readAt_subStat (h.cfg ▸ hsub)) hp
      rw [perform_next_of_done (nextAccess_subRead_done sub k ack _ heq) hrest] at hok ⊢
      rw [subReadOk_complete ack _ heq, replyData, subStatWord_getLsbD_1] at hok
      rw [subReadValues_complete ack _ heq, h.read hok, heq]

end

/-- Settles O60: the acknowledgement latches the front bank, and the words are read while that latch is valid, or the
last access shows that it is not. -/
theorem subReadIsSnapshot : Obligations.SubReadIsSnapshot := by
  intro sub k n gaps s u hi hpos hsub hrange hlen hq hp hdone hok
  cases gaps with
  | nil =>
    cases hp
    simp [nextAccess_subRead] at hdone
  | cons gap gaps =>
    rw [List.flatten_cons] at hq hlen
    rw [List.length_append] at hlen
    have hexec : exec (decode (encode (.subAck sub))) s = _ :=
      (decodeInvertsEncode (.subAck sub) rfl) ▸ exec_subAck hpos hsub
    obtain ⟨v, hgap, hrest⟩ := perform_cons_next_of_answer (seen := []) hi.cfg_valid rfl hexec hp
    have hlatched : LatchedSince s sub.toNat 0
        (s.answer (respond (consume s.blk sub.toNat) 0x6 codeOk) (.write .okay)) := {
      inv := stepKeepsInvariant _ _ (inv_withNext hi _) ((step_withNext_host hi.cfg_valid _).trans hexec)
      cfg := rfl
      latch := (slotAt_consume s.blk sub.toNat sub.toNat).trans (if_pos rfl)
      publishes := ⟨0, le_rfl, (BitVec.add_zero _).symm⟩
      words := fun _ _ => rfl }
    obtain ⟨hv, _⟩ :=
      latchedSince_runActions hpos (fun a ha => hq a (List.mem_append_left _ ha)) hlatched (by omega) hgap
    exact subReadValues_of_perform (rs := []) hpos hsub hrange (fun a ha => hq a (List.mem_append_right _ ha))
      (by omega) (Nat.zero_le n) { hv with read := fun _ => rfl } hrest hdone hok

end Sys2Proof.Machine
end

section
/-! The family of spec/40_host_commands.md: every command step records the opcode of its word (R100), and what each
command changes and leaves unchanged (R101 to R108). -/

namespace Sys2Proof.Machine

open Sys2Proof

/-! ### The fields of a command word -/

/-- A slice of a word is the field of its bits. -/
theorem toNat_extractLsb'_eq_field {n : Nat} (v : BitVec n) (lo len : Nat) :
    (v.extractLsb' lo (len + 1)).toNat = field v (lo + len) lo := by
  rw [field, BitVec.extractLsb'_toNat, Nat.shiftRight_eq_div_pow, Nat.add_sub_cancel_left]

theorem ofNat_field_opcode (w : Word) : BitVec.ofNat 4 (field w 31 28) = w.extractLsb' 28 4 := by
  rw [← toNat_extractLsb'_eq_field w 28 3, BitVec.ofNat_toNat, BitVec.setWidth_eq]

/-- A slice with a bit set is a field that is not 0. -/
theorem field_ne_zero_of_extractLsb'_ne_zero {n lo len : Nat} {v : BitVec n} (h : v.extractLsb' lo (len + 1) ≠ 0) :
    field v (lo + len) lo ≠ 0 := fun h0 =>
  h (BitVec.eq_of_toNat_eq ((toNat_extractLsb'_eq_field v lo len).trans h0))

theorem opcode_commandWord {op rest : Nat} (hop : op < 16) (hrest : rest < 2 ^ 28) :
    (commandWord op rest).extractLsb' 28 4 = BitVec.ofNat 4 op := by
  rw [← ofNat_field_opcode, field_commandWord_opcode hop hrest]

/-- A bit is reserved by its opcode (R83), so a word with one set is caught. -/
theorem reservedBitSet_of_field_ne_zero {w : Word} {k : Nat} (hk : reservedFrom (field w 31 28) = some k)
    (h : field w 27 k ≠ 0) : reservedBitSet w = true := by
  simp [reservedBitSet, hk, h]

/-- The opcodes without operand reserve the whole operand area (R82, R83). -/
theorem reservedFrom_of_le_three {op : Nat} (h : op ≤ 3) : reservedFrom op = some 0 := by
  interval_cases op <;> rfl

/-- The reserved opcode 0x7 decodes to its own row (R84). -/
theorem decodeCommand_of_opcode_seven {w : Word} (h : field w 31 28 = 7) :
    decodeCommand w = .illegalOp7 (BitVec.ofNat 28 (field w 27 0)) := by
  simp only [decodeCommand, h]

/-! ### The words of the commands with operands -/

theorem toNat_append_eq_add {m n : Nat} (x : BitVec m) (y : BitVec n) : (x ++ y).toNat = x.toNat * 2 ^ n + y.toNat := by
  rw [BitVec.toNat_append, ← Nat.shiftLeft_add_eq_or_of_lt y.isLt, Nat.shiftLeft_eq]

theorem encodeCommand_selectWave (wave : BitVec 8) : encodeCommand (.selectWave wave) = 0x400000#24 ++ wave := by
  have hwave := wave.isLt
  refine BitVec.eq_of_toNat_eq ?_
  rw [encodeCommand, toNat_commandWord (by decide) (by omega), toNat_append_eq_add]
  rfl

theorem encodeCommand_armReport (start count : BinWord) :
    encodeCommand (.armReport start count) = 0x5#4 ++ start ++ count := by
  have hstart := start.isLt
  have hcount := count.isLt
  have hop : (0x5#4).toNat = 5 := rfl
  refine BitVec.eq_of_toNat_eq ?_
  rw [encodeCommand, toNat_commandWord (by decide) (by omega), toNat_append_eq_add, toNat_append_eq_add, hop]
  omega

/-! ### The command step -/

/-- A meaning that is one command completes with the block it leaves once RESP is written. -/
theorem completes_of_command_eq {i : Instr} {s : State} {b b' : Block} {o : BitVec 4} {c : BitVec 8}
    (h : exec i s = .next (s.command b o c)) (hb : respond b o c = b') : Completes i s b' (.write .okay) :=
  hb ▸ completes_of_command h

/-- Every command ends in one command step, which records the opcode of the command's word (R100). -/
theorem exec_command (c : Command) (s : State) :
    ∃ b code, exec c.instr s = .next (s.command b ((encodeCommand c).extractLsb' 28 4) code) := by
  cases c with
  | selectWave wave =>
    have hwave := wave.isLt
    rw [encodeCommand, opcode_commandWord (by decide) (by omega)]
    exact ⟨_, _, rfl⟩
  | armReport start count =>
    have hstart := start.isLt
    have hcount := count.isLt
    rw [encodeCommand, opcode_commandWord (by decide) (by omega)]
    exact ⟨_, _, rfl⟩
  | subAck sub =>
    have hsub := sub.isLt
    rw [encodeCommand, opcode_commandWord (by decide) (by omega)]
    exact ⟨_, _, rfl⟩
  | illegalReservedBits w =>
    rw [encodeCommand, ← ofNat_field_opcode]
    exact ⟨_, _, rfl⟩
  | illegalOp7 any =>
    rw [encodeCommand, opcode_commandWord (by decide) any.isLt]
    exact ⟨_, _, rfl⟩
  | illegalOp8F op any =>
    rw [encodeCommand, opcode_commandWord op.isLt any.isLt, BitVec.ofNat_toNat, BitVec.setWidth_eq]
    exact ⟨_, _, rfl⟩
  | nop | acqStart | outStart | stop => exact ⟨_, _, rfl⟩

/-- Settles O6: a word is the encoding of the command it decodes to, so that command's step records the word's opcode. -/
theorem writeToCmdRunsCommand : Obligations.WriteToCmdRunsCommand := by
  intro w s
  obtain ⟨b, code, h⟩ := exec_command (decodeCommand w) s
  rw [encodeCommandInvertsDecode w] at h
  exact ⟨_, (execWrCmd_eq w s).trans h, h, rfl, rfl, rfl, rfl⟩

/-! ### NOP and the illegal words -/

theorem completes_illegalReservedBits (w : Word) (s : State) :
    Completes (.illegalReservedBits w) s (respond s.blk (w.extractLsb' 28 4) codeIllegal) (.write .okay) :=
  ofNat_field_opcode w ▸ completes_of_command rfl

/-- A word with a reserved bit set records its opcode and ILLEGAL, and nothing else (R83, R108). -/
theorem completes_decode_of_reservedBitSet {w : Word} (h : reservedBitSet w = true) (s : State) :
    Completes (decode (.command w)) s (respond s.blk (w.extractLsb' 28 4) codeIllegal) (.write .okay) := by
  rw [decode, decodeCommand_of_reservedBitSet h]
  exact completes_illegalReservedBits w s

/-- A word of a reserved opcode does the same (R84, R108). -/
theorem completes_decode_of_opcode_ge_seven {w : Word} (h : 7 ≤ field w 31 28) (s : State) :
    Completes (decode (.command w)) s (respond s.blk (w.extractLsb' 28 4) codeIllegal) (.write .okay) := by
  rw [← ofNat_field_opcode]
  rcases Nat.eq_or_lt_of_le h with h7 | h8
  · rw [decode, decodeCommand_of_opcode_seven h7.symm, ← h7]
    exact completes_of_command rfl
  · rw [decode, decodeCommand_of_opcode_ge h8]
    exact completes_of_command rfl

/-- Settles O7: an illegal word has a reserved opcode, or sets a bit that its opcode reserves. -/
theorem nopAndIllegalWriteOnlyResp : Obligations.NopAndIllegalWriteOnlyResp := by
  refine ⟨decodeInvertsEncode .nop rfl, fun s => ⟨completes_of_command_eq rfl rfl, fun w => ?_,
    fun w => completes_illegalReservedBits w s, fun _ => completes_of_command_eq rfl rfl,
    fun _ _ => completes_of_command_eq rfl rfl⟩⟩
  rw [toNat_extractLsb'_eq_field w 28 3]
  rintro op (hop | ⟨hop, hres⟩ | ⟨hop, hres⟩ | ⟨hop, hres⟩)
  · exact completes_decode_of_opcode_ge_seven hop s
  all_goals refine completes_decode_of_reservedBitSet ?_ s
  · exact reservedBitSet_of_field_ne_zero (reservedFrom_of_le_three hop) (field_ne_zero_of_extractLsb'_ne_zero hres)
  · exact reservedBitSet_of_field_ne_zero (congrArg reservedFrom hop) (field_ne_zero_of_extractLsb'_ne_zero hres)
  · exact reservedBitSet_of_field_ne_zero (congrArg reservedFrom hop) (field_ne_zero_of_extractLsb'_ne_zero hres)

/-! ### The effect of each command -/

theorem selectWaveEffect_of_lt {c : Config} {wave : BitVec 8} (h : wave.toNat < c.nWave) (b : Block) :
    selectWaveEffect c wave b = ({ b with activeWave := wave, op := 0 }, codeOk) :=
  if_neg (Nat.not_le_of_lt h)

theorem selectWaveEffect_of_not_lt {c : Config} {wave : BitVec 8} (h : ¬ wave.toNat < c.nWave) (b : Block) :
    selectWaveEffect c wave b = (b, codeBadWave) :=
  if_pos (Nat.le_of_not_lt h)

/-- An operand is 0 as a word where it is 0 as a number. -/
theorem toNat_eq_zero_iff {n : Nat} {v : BitVec n} : v.toNat = 0 ↔ v = 0 :=
  ⟨fun h => BitVec.eq_of_toNat_eq h, fun h => h ▸ rfl⟩

theorem armReportEffect_of_invalid {c : Config} {start count : BinWord}
    (h : count.toNat = 0 ∨ start.toNat + count.toNat > binCount c) (b : Block) :
    armReportEffect c start count b = (b, codeInvalidRange) :=
  if_pos (h.imp_left toNat_eq_zero_iff.1)

theorem armReportEffect_of_valid {c : Config} {start count : BinWord}
    (h : ¬ (count.toNat = 0 ∨ start.toNat + count.toNat > binCount c)) (b : Block) :
    armReportEffect c start count b = ({ b with reqStart := start, reqCount := count, armed := true }, codeOk) :=
  if_neg (mt (Or.imp_left toNat_eq_zero_iff.2) h)

theorem subAckEffect_of_no_slot {c : Config} {sub : BitVec 4} (h : sub.toNat = 0 ∨ c.nSub ≤ sub.toNat) (b : Block) :
    subAckEffect c sub b = (b, codeBadSub) :=
  if_pos (h.imp_left toNat_eq_zero_iff.1)

end Sys2Proof.Machine

/-! The model's functions have the names of five of these statements, so the theorems stand in a namespace of their
own. -/

namespace Sys2Proof.Machine.HostCommands

open Sys2Proof Sys2Proof.Machine

/-- Settles O8, by the four cases of R102 in order. -/
theorem acqStartEffect : Obligations.AcqStartEffect := by
  refine ⟨decodeInvertsEncode .acqStart rfl, fun s => completes_of_command_eq rfl ?_⟩
  unfold Machine.acqStartEffect
  split_ifs <;> rfl

/-- Settles O9, by the four cases of R103 in order. -/
theorem outStartEffect : Obligations.OutStartEffect := by
  refine ⟨decodeInvertsEncode .outStart rfl, fun s => completes_of_command_eq rfl ?_⟩
  unfold Machine.outStartEffect
  split_ifs <;> rfl

/-- Settles O10: STOP has one case, whatever the state. -/
theorem stopEffect : Obligations.StopEffect :=
  ⟨decodeInvertsEncode .stop rfl, fun _ => completes_of_command_eq rfl rfl⟩

/-- Settles O11, by whether the catalog has the number. -/
theorem selectWaveEffect : Obligations.SelectWaveEffect := by
  intro wave s
  refine ⟨encodeCommand_selectWave wave ▸ decodeInvertsEncode (.selectWave wave) rfl, completes_of_command_eq rfl ?_⟩
  by_cases h : wave.toNat < s.cfg.nWave
  · rw [if_pos h, selectWaveEffect_of_lt h]
    rfl
  · rw [if_neg h, selectWaveEffect_of_not_lt h]
    rfl

/-- Settles O12, by whether the range lies in the spectrum. -/
theorem armReportEffect : Obligations.ArmReportEffect := by
  intro start count s
  refine ⟨encodeCommand_armReport start count ▸ decodeInvertsEncode (.armReport start count) rfl,
    completes_of_command_eq rfl ?_⟩
  by_cases h : count.toNat = 0 ∨ start.toNat + count.toNat > 2 ^ s.cfg.lgN / 2
  · rw [if_pos h, armReportEffect_of_invalid h]
    rfl
  · rw [if_neg h, armReportEffect_of_valid h]
    rfl

/-- Settles O13: a host slot consumes the publication, and a consumption writes its own slot alone. -/
theorem subAckEffect : Obligations.SubAckEffect := by
  intro sub s
  refine ⟨encodeCommand_subAck sub ▸ decodeInvertsEncode (.subAck sub) rfl, ?_⟩
  by_cases h : sub.toNat = 0 ∨ s.cfg.nSub ≤ sub.toNat
  · refine ⟨respond s.blk 0x6 codeBadSub, completes_of_command_eq rfl ?_, ?_⟩
    · rw [subAckEffect_of_no_slot h]
    · rw [if_pos h]
      rfl
  · have hexec := exec_subAck (s := s) (sub := sub) (by omega) (by omega)
    refine ⟨respond (consume s.blk sub.toNat) 0x6 codeOk, completes_of_answer hexec, ?_⟩
    rw [if_neg h]
    refine ⟨rfl, ?_, fun n hn => ?_⟩
    · exact (slotAt_consume s.blk sub.toNat sub.toNat).trans (if_pos rfl)
    · exact (slotAt_consume s.blk sub.toNat n).trans (if_neg hn)

end Sys2Proof.Machine.HostCommands
end

section
/-! The family of spec/41_register_access.md: what each register reads as and what each write of one leaves (R120 to
R134), over the field layouts of spec/10_state.md R49 to R58. -/

namespace Sys2Proof.Machine

open Sys2Proof

/-! ### The write of a byte offset -/

theorem portAddr_writeKey {addr : Nat} (h : addr < 2 ^ 20) : portAddr (writeKey addr) = addr := by
  rw [portAddr_eq_mod, writeKey, BitVec.toNat_ofNat]
  omega

theorem isWrite_writeKey (addr : Nat) : isWrite (writeKey addr) = true := by
  rw [← field_writeBit_eq_one_iff, field, writeKey, BitVec.toNat_ofNat]
  omega

/-- A write of a read-only register is SLVERR and changes nothing (R120). -/
theorem completes_writeAt_readOnly {addr : Nat} (h : addr < 2 ^ 20) (ho : ReadOnly addr) (data : Word) (s : State) :
    Completes (decode (writeAt addr data)) s s.blk (.write .slverr) := by
  have hw := isWrite_writeKey addr
  have hnone : decodeKey (writeKey addr) data = none :=
    decodeKey_write_readOnly hw (by rwa [portAddr_writeKey h]) data
  simpa only [writeAt, hw, if_true] using completes_of_decodeKey_none (fun _ => hnone) s

/-! ### The fields of the words read -/

/-- The bits of STATUS that stand alone (spec/10_state.md R50). -/
theorem statusWord_flags (c : Config) (b : Block) :
    (statusWord c b).getLsbD 0 = b.acqRun ∧ (statusWord c b).getLsbD 1 = b.outRun ∧
    (statusWord c b).getLsbD 2 = decide (b.engPhase ≠ .idle) ∧ (statusWord c b).getLsbD 3 = b.pending ∧
    (statusWord c b).getLsbD 4 = b.armed ∧ (statusWord c b).getLsbD 5 = decide (b.rcState ≠ .waiting) ∧
    (statusWord c b).getLsbD 6 = b.fatal ∧ (statusWord c b).getLsbD 31 = b.rptOut.isSome := by
  simp only [statusWord, BitVec.getLsbD_append, BitVec.getLsbD_ofBool]
  simp [bne, beq_eq_decide]

/-- The fields of STATUS: WBANK, WAVE and WP (spec/10_state.md R50). -/
theorem statusWord_fields (c : Config) (b : Block) :
    (statusWord c b).extractLsb' 7 1 = BitVec.ofNat 1 (b.wp / winLen c) ∧
    (statusWord c b).extractLsb' 8 8 = b.activeWave ∧
    (statusWord c b).extractLsb' 16 15 = BitVec.ofNat 15 b.wp := by
  simp (disch := omega) only [statusWord, BitVec.extractLsb'_append_eq_of_le, BitVec.extractLsb'_append_eq_of_add_le,
    BitVec.extractLsb'_eq_self, Nat.reduceSub, and_self]

/-- The fields of ID (spec/10_state.md R49). -/
theorem idWord_fields (c : Config) :
    (idWord c).extractLsb' 0 4 = BitVec.ofNat 4 c.lgN ∧ (idWord c).extractLsb' 4 5 = BitVec.ofNat 5 c.sampleBits ∧
    (idWord c).extractLsb' 9 4 = BitVec.ofNat 4 c.nSub ∧
    (idWord c).extractLsb' 13 8 = BitVec.ofNat 8 (c.nWave - 1) ∧
    (idWord c).extractLsb' 21 4 = BitVec.ofNat 4 (c.nIn - 1) ∧ (idWord c).extractLsb' 25 7 = 0x07 := by
  simp (disch := omega) only [idWord, BitVec.extractLsb'_append_eq_of_le, BitVec.extractLsb'_append_eq_of_add_le,
    BitVec.extractLsb'_eq_self, Nat.reduceSub, and_self]

/-- A flag shifted to bit `j` of a word stands there alone. -/
theorem getLsbD_ofBool_shiftLeft (p : Bool) {i j : Nat} (hi : i < 32) :
    ((BitVec.ofBool p).setWidth 32 <<< j).getLsbD i = (decide (i = j) && p) := by
  rw [BitVec.getLsbD_shiftLeft, BitVec.getLsbD_setWidth, BitVec.getLsbD_ofBool]
  by_cases hlt : i < j
  · simp [hlt, hlt.ne]
  · simp [hi, show i - j < 32 by omega, show i - j = 0 ↔ i = j by omega, hlt]

/-- Up to 16 inputs, the two halves of DB_STATE do not meet: bit `i` says that input `i` debounces and bit `16 + i` is
its synchronized level (spec/10_state.md R55). -/
theorem getLsbD_dbStateBits (b : Block) {n : Nat} (hn : n ≤ 16) {i : Nat} (hi : i < 16) :
    (dbStateBits b n).getLsbD i = decide (i < n ∧ (inputAt b i).st = .deb) ∧
    (dbStateBits b n).getLsbD (16 + i) = decide (i < n ∧ (inputAt b i).s2 = true) := by
  induction n with
  | zero => simp [dbStateBits]
  | succ n ih =>
    obtain ⟨hst, hs2⟩ := ih (by omega)
    simp only [dbStateBits, BitVec.getLsbD_or, hst, hs2, getLsbD_ofBool_shiftLeft _ (show i < 32 by omega),
      getLsbD_ofBool_shiftLeft _ (show 16 + i < 32 by omega)]
    have hlow : i ≠ 16 + n := by omega
    have hhigh : 16 + i ≠ n := by omega
    rcases Nat.lt_trichotomy i n with h | rfl | h
    · simp [h, h.ne, hlow, hhigh, Nat.lt_succ_of_lt h]
    · simp [beq_eq_decide]
    · simp [h.ne', hlow, hhigh, show ¬ i < n by omega, show ¬ i < n + 1 by omega]

/-- SUB_STAT: LAT_BANK, VALID and NEW, from one block (spec/10_state.md R54). -/
theorem subStatWord_eq (b : Block) (n : Nat) : subStatWord b n =
    0#29 ++ BitVec.ofNat 1 (slotAt b n).latBank.toNat ++
      BitVec.ofBool (decide (b.bankVer.get (slotAt b n).latBank = (slotAt b n).latVer)) ++
      BitVec.ofBool (decide (b.version ≠ (slotAt b n).seenVer)) := by
  simp [subStatWord, validFlag, newFlag, bne, beq_eq_decide]

/-! ### The results -/

/-- The four rows of RES are one read (R134). -/
theorem completes_readResult {n : BitVec 4} {k : BinWord} {i : Instr} {s : State}
    (h : exec i s = .next (s.readResult n.toNat k.toNat)) : Completes i s s.blk
      (if 1 ≤ n.toNat ∧ n.toNat < s.cfg.nSub ∧ k.toNat < 2 ^ s.cfg.lgN / 2 then
        .read (rbAt s.blk (slotAt s.blk n.toNat).latBank k.toNat) .okay
      else .read 0 .slverr) :=
  completes_of_answer (h.trans (congrArg _ (State.readResult_eq_answer s n.toNat k.toNat)))

/-! ### The statements -/

/-- Settles O16: the two halves of the word, bit by bit. -/
theorem dbStateReadReturnsInputs : Obligations.DbStateReadReturnsInputs :=
  ⟨decodeInvertsEncode .rdDbState rfl, fun s hn =>
    ⟨dbStateWord s.cfg s.blk, completes_of_answer rfl, fun _ hi => getLsbD_dbStateBits s.blk hn hi⟩⟩

/-- Settles O14: each register's word is its fields; those of ID are told apart by their place. -/
theorem registerReadsReturnFields : Obligations.RegisterReadsReturnFields := by
  refine ⟨decodeInvertsEncode .rdCmd rfl, decodeInvertsEncode .rdResp rfl, decodeInvertsEncode .rdVersion rfl,
    decodeInvertsEncode .rdWincnt rfl, decodeInvertsEncode .rdOvrCnt rfl, decodeInvertsEncode .rdSkipCnt rfl,
    decodeInvertsEncode .rdDropCnt rfl, decodeInvertsEncode .rdReportReq rfl, decodeInvertsEncode .rdId rfl,
    fun s => ?_⟩
  have hid : Completes .rdId s s.blk (.read (idWord s.cfg) .okay) := completes_of_answer rfl
  refine ⟨?_, ?_, ?_, ?_, ?_, ?_, ?_, ?_, idWord s.cfg, hid, idWord_fields s.cfg⟩
  all_goals exact completes_of_answer rfl

/-- Settles O15: each field of the word is at its place. -/
theorem statusReadReturnsLiveFields : Obligations.StatusReadReturnsLiveFields := by
  refine ⟨decodeInvertsEncode .rdStatus rfl,
    completes_writeAt_readOnly (by decide) (by unfold ReadOnly; decide), fun s => ?_⟩
  obtain ⟨hacq, hout, heng, hpend, harm, hrc, hfatal, hrpt⟩ := statusWord_flags s.cfg s.blk
  obtain ⟨hbank, hwave, hwp⟩ := statusWord_fields s.cfg s.blk
  exact ⟨statusWord s.cfg s.blk, completes_of_answer rfl, hacq, hout, heng, hpend, harm, hrc, hfatal, hbank, hwave,
    hwp, hrpt⟩

/-- Settles O17: the reply is the word before the pop. -/
theorem evqPopReturnsAndEmpties : Obligations.EvqPopReturnsAndEmpties :=
  ⟨decodeInvertsEncode .rdEvqPop rfl, completes_writeAt_readOnly (by decide) (by unfold ReadOnly; decide),
    fun _ => completes_of_answer rfl⟩

/-- Settles O18: bits 8:0 of a word are the word cut to nine bits. -/
theorem readWriteRegisters : Obligations.ReadWriteRegisters := by
  intro w s
  have hlow : w.extractLsb' 0 9 = w.setWidth 9 := (BitVec.setWidth_eq_extractLsb' (by decide)).symm
  rw [hlow]
  refine ⟨decodeInvertsEncode .rdIrqStat rfl, decodeInvertsEncode (.wrIrqStat w) rfl,
    decodeInvertsEncode .rdIrqEn rfl, decodeInvertsEncode (.wrIrqEn w) rfl, decodeInvertsEncode .rdRateDiv rfl,
    decodeInvertsEncode (.wrRateDiv w) rfl, ?_, ?_, ?_, ?_, ?_, ?_⟩
  all_goals exact completes_of_answer rfl

/-- Settles O19: a slot's registers are read-only, and a read of one depends on whether the slot exists. -/
theorem subscriberReads : Obligations.SubscriberReads := by
  intro n data s
  have hn := n.isLt
  refine ⟨decode_readAt_subStat n, decode_readAt_subLatver n,
    completes_writeAt_readOnly (by omega) (by unfold ReadOnly; omega) data s,
    completes_writeAt_readOnly (by omega) (by unfold ReadOnly; omega) data s, ?_, ?_⟩
  · rw [← subStatWord_eq]
    exact completes_of_answer (congrArg _ (State.readSlot_eq_answer ..))
  · exact completes_of_answer (congrArg _ (State.readSlot_eq_answer ..))

/-- Settles O20: every row of RES is the same read, and so is the access to its address; no window is writable. -/
theorem resultReads : Obligations.ResultReads := by
  intro n k data s r
  have hn := n.isLt
  have hk := k.isLt
  refine ⟨fun i hi => ?_, fun hpos => ⟨?_, ?_⟩⟩
  · rcases hi with rfl | rfl | rfl | rfl <;> exact completes_readResult rfl
  · rw [decode_readAt_result hpos hn hk]
    exact completes_readResult (exec_decodeResult hn hk s)
  · exact completes_writeAt_readOnly (by omega) (by unfold ReadOnly; omega) data s

/-- Settles O21: bit 20 of the key tells a write. -/
theorem busErrorChangesNothing : Obligations.BusErrorChangesNothing := completes_busError

end Sys2Proof.Machine
end

section
/-! The family of spec/42_acquisition_output.md: what a tick of the sample clock does to the output stream (R144, R145) and
to an acquiring block (R141 to R143), and the window that N ticks complete (R147). -/

namespace Sys2Proof.Machine

open Sys2Proof

/-! ### The tick -/

/-- A tick with acquisition stopped moves the output index alone (R145). -/
theorem sampleMove_of_stopped {c : Config} {b : Block} (h : b.acqRun = false) (x : Sample) :
    sampleMove c x b = .moved (if b.outRun then { b with op := (b.op + 1) % winLen c } else b)
      (if b.outRun then [streamEvent c b] else []) := by
  simp only [sampleMove, if_neg (ne_true_of_eq_false h)]
  split_ifs <;> rfl

/-- Settles O26, by whether output runs. -/
theorem tickStreamsWaveform : Obligations.TickStreamsWaveform :=
  fun x _ hv hr => moves_of_agentMove hv (by simp) (sampleMove_of_stopped hr x)

/-! ### One sample -/

section
variable (c : Config) (b : Block)

/-- The bank that the next sample goes to (R28). -/
abbrev writeBank : Bank := Bank.ofIndex (b.wp / winLen c)

/-- The next sample is the last of its window (R141). -/
abbrev LastOfWindow : Prop := b.wp % winLen c = winLen c - 1

/-- The next sample goes to the bank that is being loaded (R141, R142). -/
abbrev AbortsLoad : Prop := b.engPhase = .load ∧ b.ldBank = writeBank c b

/-- The engine is at work, and the next sample does not stop it. -/
abbrev StaysBusy : Prop := b.engPhase ≠ .idle ∧ ¬AbortsLoad c b

/-- The engine is at work after the sample just if it was before and the sample did not abort it. -/
theorem phaseAfter_ne_idle_iff :
    (if AbortsLoad c b then EngPhase.idle else b.engPhase) ≠ .idle ↔ StaysBusy c b := by
  by_cases h : AbortsLoad c b <;> simp [h]

/-- Of two writes to one bank of a pair the later one stands. -/
theorem perBank_set_set {α : Type} (p : PerBank α) (bank : Bank) (v w : α) :
    (p.set bank v).set bank w = p.set bank w := by
  cases bank <;> rfl

/-- A source set twice, for one reason and for another, is set once for either. -/
theorem or_ite_or_ite {n : Nat} (i u v m : BitVec n) (p q : Prop) [Decidable p] [Decidable q] :
    i ||| (if p then m else 0) ||| u ||| v ||| (if q then m else 0) = i ||| u ||| v ||| (if p ∨ q then m else 0) := by
  have heither : (if p ∨ q then m else 0) = (if p then m else 0) ||| (if q then m else 0) := by
    by_cases hp : p <;> by_cases hq : q <;> simp [hp, hq]
  rw [heither]
  ac_rfl

/-- An aborted load leaves the engine idle and counts as a skip, and nothing else changes (R142). -/
theorem abortLoadOf_eq (bank : Bank) :
    abortLoadOf bank b =
      { b with
        engPhase := if b.engPhase = .load ∧ b.ldBank = bank then .idle else b.engPhase
        skipCnt := b.skipCnt + if b.engPhase = .load ∧ b.ldBank = bank then 1 else 0
        irqStat := b.irqStat ||| if b.engPhase = .load ∧ b.ldBank = bank then irqSkip else 0 } := by
  unfold abortLoadOf
  split_ifs
  · rfl
  · simp

/-- A strobe in the form of R143: what each condition adds to the counts and to the interrupt bits. -/
theorem strobe_eq_add (bank : Bank) :
    strobe b bank =
      { b with
        bankOk := b.bankOk.set bank true
        cbank := bank
        wincnt := b.wincnt + 1
        pending := true
        ovrCnt := b.ovrCnt + if b.engPhase ≠ .idle then 1 else 0
        skipCnt := b.skipCnt + if b.pending then 1 else 0
        irqStat := b.irqStat ||| irqWin ||| (if b.engPhase ≠ .idle then irqOvr else 0) |||
          (if b.pending then irqSkip else 0) } := by
  rw [strobe_eq]
  split_ifs <;> simp

/-- What a sample does to its bank and to the engine before it is stored (R141, R142). -/
theorem openBank_eq_add :
    openBank c b =
      { b with
        bankOk := b.bankOk.set (writeBank c b) false
        engPhase := if AbortsLoad c b then .idle else b.engPhase
        skipCnt := b.skipCnt + if AbortsLoad c b then 1 else 0
        irqStat := b.irqStat ||| if AbortsLoad c b then irqSkip else 0 } := by
  simp only [openBank, abortLoadOf_eq]

/-- One sample in the form of R141 to R143: the registers it writes, and what each condition adds to the counts and to the
interrupt bits. A skip counts once for the aborted load and once for the displaced window, and sets its one bit. -/
theorem acquire_eq_add (x : Sample) :
    acquire c x b =
      { b with
        sb := b.sb.set 0 b.wp (lowBits c.sampleBits x)
        wp := (b.wp + 1) % (2 * winLen c)
        bankOk := b.bankOk.set (writeBank c b) (decide (LastOfWindow c b))
        engPhase := if AbortsLoad c b then .idle else b.engPhase
        cbank := if LastOfWindow c b then writeBank c b else b.cbank
        pending := decide (LastOfWindow c b) || b.pending
        wincnt := b.wincnt + if LastOfWindow c b then 1 else 0
        ovrCnt := b.ovrCnt + if LastOfWindow c b ∧ StaysBusy c b then 1 else 0
        skipCnt := b.skipCnt + (if AbortsLoad c b then 1 else 0) +
          if LastOfWindow c b ∧ b.pending = true then 1 else 0
        irqStat := b.irqStat ||| (if LastOfWindow c b then irqWin else 0) |||
          (if LastOfWindow c b ∧ StaysBusy c b then irqOvr else 0) |||
          (if AbortsLoad c b ∨ (LastOfWindow c b ∧ b.pending = true) then irqSkip else 0) } := by
  rw [acquire_eq, openBank_eq_add, strobe_eq_add]
  by_cases hw : LastOfWindow c b
  · rw [if_pos hw]
    simp only [storeSample, setSb, perBank_set_set, phaseAfter_ne_idle_iff, eq_true hw, true_and, if_true, decide_true,
      Bool.true_or]
    congr 1
    exact or_ite_or_ite ..
  · rw [if_neg hw]
    simp [storeSample, setSb, hw]

end

/-- A tick of an acquiring block takes the sample, and moves the output index as any tick does (R140, R145). -/
theorem sampleMove_of_acquiring {c : Config} {b : Block} (h : b.acqRun = true) (x : Sample) :
    sampleMove c x b = .moved { acquire c x b with op := if b.outRun then (b.op + 1) % winLen c else b.op }
      (if b.outRun then [streamEvent c b] else []) := by
  have hop : (acquire c x b).op = b.op := by rw [acquire_eq_add]
  rw [sampleMove_eq, if_pos h, hop]

/-- A stored sample is cut to P_B bits. -/
theorem toNat_lowBits (bits : Nat) (v : Sample) : (lowBits bits v).toNat = v.toNat % 2 ^ bits := by
  unfold lowBits
  rw [BitVec.toNat_ofNat]
  exact Nat.mod_eq_of_lt (lt_of_le_of_lt (Nat.mod_le _ _) v.isLt)

/-- Settles O27: each register of the block after the sample is as `acquire_eq_add` gives it. -/
theorem tickAcquiresSample : Obligations.TickAcquiresSample := by
  intro x s hv hr n bank complete aborted busy
  refine ⟨_, moves_of_agentMove hv (by simp) (sampleMove_of_acquiring hr x), ?_⟩
  rw [acquire_eq_add]
  refine ⟨fun j => ?_, rfl, PerBank.get_set_same .., PerBank.get_set_other .., rfl, rfl, rfl, rfl, rfl, rfl, rfl,
    rfl, rfl⟩
  calc (sbAt (setSb s.blk s.blk.wp (lowBits s.cfg.sampleBits x)) j).toNat
    _ = (if j = s.blk.wp then lowBits s.cfg.sampleBits x else sbAt s.blk j).toNat := by rw [sbAt_setSb]
    _ = if j = s.blk.wp then x.toNat % 2 ^ s.cfg.sampleBits else (sbAt s.blk j).toNat := by
        rw [apply_ite BitVec.toNat, toNat_lowBits]

/-! ### A window of ticks -/

/-- The agent step at the head of the schedule takes the machine where that step, picked next on the rest, moves it. -/
theorem step_of_moves {a : Action} {rest : List Action} {s : State} {b : Block} {evs : List Event}
    (hs : s.sched = a :: rest) (h : Moves a { s with sched := rest } b evs) :
    ∃ t, step s = .next t ∧ t.blk = b ∧ t.cfg = s.cfg ∧ t.sched = rest := by
  obtain ⟨t, hstep, hblk, _, _, hcfg, hsched, _⟩ := h
  have hnext : State.withNext { s with sched := rest } a = s := by
    unfold State.withNext
    rw [← hs]
  exact ⟨t, hnext ▸ hstep, hblk, hcfg, hsched⟩

/-- A run whose first step answers a next state goes on from it. -/
theorem run_succ_of_step {s t : State} (h : step s = .next t) (k : Nat) :
    Sys2Proof.core.run (k + 1) s = Sys2Proof.core.run k t := by
  have hcore : Sys2Proof.core.step s = .next t := h
  simp only [Host.Core.run, hcore]

/-- A write pointer that is not at the last word of its bank moves on inside the bank. -/
theorem nextWp_inside {n wp : Nat} (h : wp % n + 1 < n) (hwp : wp < 2 * n) :
    (wp + 1) % (2 * n) = wp + 1 ∧ (wp + 1) % n = wp % n + 1 ∧ (wp + 1) / n = wp / n := by
  have hmod : (wp + 1) % n = wp % n + 1 := by
    rw [Nat.add_mod, Nat.mod_eq_of_lt (show 1 < n by omega), Nat.mod_eq_of_lt h]
  have hlt : wp + 1 < 2 * n := by
    refine lt_of_le_of_ne hwp fun he => ?_
    rw [he, Nat.mul_mod_left] at hmod
    omega
  refine ⟨Nat.mod_eq_of_lt hlt, hmod, Nat.succ_div_of_not_dvd fun hd => ?_⟩
  rw [Nat.mod_eq_zero_of_dvd hd] at hmod
  omega

/-- `t` is `s` after the ticks of `xs`, of which the last is the last of a window: the samples lie in order from the write
pointer on, no word before it has changed, and the window's one strobe has happened (R147). -/
structure WindowDone (xs : List Sample) (s t : State) : Prop where
  stored : ∀ (i : Nat) (h : i < xs.length), (sbAt t.blk (s.blk.wp + i)).toNat = xs[i].toNat % 2 ^ s.cfg.sampleBits
  before : ∀ j, j < s.blk.wp → (sbAt t.blk j).toNat = (sbAt s.blk j).toNat
  wincnt : t.blk.wincnt = s.blk.wincnt + 1
  cbank : t.blk.cbank = writeBank s.cfg s.blk
  bankOk : t.blk.bankOk.get t.blk.cbank = true
  pending : t.blk.pending = true
  acqRun : t.blk.acqRun = true
  wp : t.blk.wp = (s.blk.wp + xs.length) % (2 * winLen s.cfg)

/-- The last tick of a window. -/
theorem windowDone_of_lastTick {x : Sample} {rest : List Action} {s : State} (hi : Inv s) (hr : s.blk.acqRun = true)
    (hw : LastOfWindow s.cfg s.blk) (hs : s.sched = .sample x :: rest) :
    ∃ t, step s = .next t ∧ t.sched = rest ∧ WindowDone [x] s t := by
  obtain ⟨b, hmoves, hsb, hwp, hok, _, _, hcb, hpend, hcnt, _, _, _, _, hframe⟩ :=
    tickAcquiresSample x { s with sched := rest } hi.cfg_valid hr
  obtain ⟨t, hstep, rfl, _, hsched⟩ := step_of_moves hs hmoves
  have hcb : t.blk.cbank = writeBank s.cfg s.blk := hcb.trans (if_pos hw)
  refine ⟨t, hstep, hsched, ?_⟩
  exact {
    stored := fun i h => by
      obtain rfl : i = 0 := by simpa using h
      exact (hsb _).trans (if_pos rfl)
    before := fun j hj => (hsb j).trans (if_neg hj.ne)
    wincnt := hcnt.trans (congrArg (s.blk.wincnt + ·) (if_pos hw))
    cbank := hcb
    bankOk := hcb ▸ hok.trans (decide_eq_true hw)
    pending := hpend.trans (congrArg (· || s.blk.pending) (decide_eq_true hw))
    acqRun := (congrArg Block.acqRun hframe).trans hr
    wp := hwp }

/-- A tick inside a window leaves the rest of the window to the ticks that follow. -/
theorem windowDone_of_tick {x : Sample} {xs : List Sample} {rest : List Action} {s : State} (hi : Inv s)
    (hr : s.blk.acqRun = true) (hw : s.blk.wp % winLen s.cfg + 1 < winLen s.cfg) (hs : s.sched = .sample x :: rest) :
    ∃ t, step s = .next t ∧ t.cfg = s.cfg ∧ t.sched = rest ∧ Inv t ∧ t.blk.acqRun = true ∧
      t.blk.wp % winLen s.cfg = s.blk.wp % winLen s.cfg + 1 ∧ ∀ u, WindowDone xs t u → WindowDone (x :: xs) s u := by
  obtain ⟨b, hmoves, hsb, hwp, _, _, _, _, _, hcnt, _, _, _, _, hframe⟩ :=
    tickAcquiresSample x { s with sched := rest } hi.cfg_valid hr
  obtain ⟨t, hstep, rfl, hcfg, hsched⟩ := step_of_moves hs hmoves
  obtain ⟨hwpRange, _⟩ := hi.indices
  obtain ⟨hnext, hmod, hdiv⟩ := nextWp_inside hw hwpRange
  have hwp : t.blk.wp = s.blk.wp + 1 := hwp.trans hnext
  have hlast : ¬LastOfWindow s.cfg s.blk := (show s.blk.wp % winLen s.cfg < winLen s.cfg - 1 by omega).ne
  have hcnt : t.blk.wincnt = s.blk.wincnt :=
    hcnt.trans ((congrArg (s.blk.wincnt + ·) (if_neg hlast)).trans (BitVec.add_zero _))
  refine ⟨t, hstep, hcfg, hsched, stepKeepsInvariant s t hi hstep, (congrArg Block.acqRun hframe).trans hr,
    by rw [hwp, hmod], fun u hu => ?_⟩
  exact {
    stored := fun i h => by
      cases i with
      | zero => exact (hu.before _ (by omega)).trans ((hsb _).trans (if_pos rfl))
      | succ i =>
        have hword := hu.stored i (by simpa using h)
        rwa [hcfg, hwp, add_assoc, add_comm 1 i] at hword
    before := fun j hj => (hu.before j (by omega)).trans ((hsb j).trans (if_neg hj.ne))
    wincnt := by rw [hu.wincnt, hcnt]
    cbank := by rw [hu.cbank, writeBank, hcfg, hwp, hdiv]
    bankOk := hu.bankOk
    pending := hu.pending
    acqRun := hu.acqRun
    wp := by rw [hu.wp, hcfg, hwp, List.length_cons, add_assoc, add_comm 1] }

/-- The ticks that are left of a window complete it, wherever in the window they start. -/
theorem run_windowDone {xs : List Sample} {rest : List Action} {s : State} (hi : Inv s) (hr : s.blk.acqRun = true)
    (hlen : s.blk.wp % winLen s.cfg + xs.length = winLen s.cfg) (hs : s.sched = xs.map .sample ++ rest) :
    ∃ t, Sys2Proof.core.run xs.length s = .next t ∧ t.sched = rest ∧ WindowDone xs s t := by
  induction xs generalizing s with
  | nil => exact absurd hlen (Nat.mod_lt _ (Nat.two_pow_pos _)).ne
  | cons x xs ih =>
    rw [List.length_cons] at hlen ⊢
    by_cases hxs : xs = []
    · subst hxs
      obtain ⟨t, hstep, hsched, hdone⟩ := windowDone_of_lastTick hi hr (Nat.eq_sub_of_add_eq hlen) hs
      exact ⟨t, run_succ_of_step hstep 0, hsched, hdone⟩
    · have hpos := List.length_pos_of_ne_nil hxs
      obtain ⟨t, hstep, hcfg, hsched, hinv, hrun, hwp, hdone⟩ := windowDone_of_tick (xs := xs) hi hr (by omega) hs
      obtain ⟨u, hu, husched, hudone⟩ := ih hinv hrun (by rw [hcfg, hwp]; omega) hsched
      exact ⟨u, (run_succ_of_step hstep _).trans hu, husched, hdone u hudone⟩

/-- Settles O28: a whole window is the ticks that are left of it at its start. -/
theorem windowOfTicksCompletesBank : Obligations.WindowOfTicksCompletesBank := by
  intro xs rest s hi hr hstart hlen hs
  obtain ⟨t, hrun, hsched, hdone⟩ := run_windowDone hi hr (by rw [hstart, hlen, Nat.zero_add]) hs
  rw [hlen] at hrun
  exact ⟨t, hrun, hsched, hdone.stored, hdone.wincnt, hdone.cbank, hdone.bankOk, hdone.pending, hdone.acqRun,
    by rw [hdone.wp, hlen]⟩

end Sys2Proof.Machine
end

section
/-! The family of spec/43_transform.md, the twiddle ROM (R171): how near the model's fixed-point roots of unity come to those of
the unit circle, for every window length, and the entries they round to at this hardware's. -/

namespace Sys2Proof.Machine

open Sys2Proof

/-! ### Pairs of integers as complex numbers -/

/-- A pair of integers as the complex number R161 takes it for. -/
noncomputable def CInt.toComplex (z : CInt) : ℂ := ⟨z.re, z.im⟩

@[simp] theorem CInt.toComplex_re (z : CInt) : z.toComplex.re = z.re := rfl
@[simp] theorem CInt.toComplex_im (z : CInt) : z.toComplex.im = z.im := rfl

theorem CInt.sq_norm_toComplex (z : CInt) : ‖z.toComplex‖ ^ 2 = (z.re : ℝ) ^ 2 + (z.im : ℝ) ^ 2 := by
  rw [Complex.sq_norm, Complex.normSq_apply, CInt.toComplex_re, CInt.toComplex_im, sq, sq]

theorem ofReal_two_pow (t : ℕ) : ((2 ^ t : ℝ) : ℂ) = 2 ^ t := by
  push_cast
  rfl

/-- A complex number whose components are at most `r` has a modulus of at most `√2 r`, for which `3/2 r` does here. -/
theorem norm_le_of_abs_le {z : ℂ} {r : ℝ} (hre : |z.re| ≤ r) (him : |z.im| ≤ r) : ‖z‖ ≤ 3 / 2 * r := by
  have hmax : max |z.re| |z.im| ≤ r := max_le hre him
  have hsqrt : √2 ≤ 3 / 2 := Real.sqrt_le_iff.2 ⟨by norm_num, by norm_num⟩
  calc ‖z‖
    _ ≤ √2 * max |z.re| |z.im| := Complex.norm_le_sqrt_two_mul_max z
    _ ≤ 3 / 2 * r := mul_le_mul hsqrt hmax (le_max_of_le_left (abs_nonneg _)) (by norm_num)

/-! ### Rounding -/

theorem intDiv_eq_floor (a : ℤ) (n : ℕ) : a / n = ⌊(a : ℝ) / n⌋ := by
  rw [← Rat.floor_intCast_div_natCast, ← Rat.floor_cast (α := ℝ)]
  norm_cast

theorem abs_intDiv_sub_le (a : ℤ) (n : ℕ) : |((a / n : ℤ) : ℝ) - a / n| ≤ 1 := by
  rw [intDiv_eq_floor, abs_sub_comm, Int.self_sub_floor, Int.abs_fract]
  exact (Int.fract_lt_one _).le

/-- Adding half a unit before the shift rounds to the nearest (R166, R171). -/
theorem roundDiv_eq_round (a : ℤ) {t : ℕ} (ht : 1 ≤ t) :
    (a + (2 ^ (t - 1) : ℕ)) / (2 ^ t : ℕ) = round ((a : ℝ) / 2 ^ t) := by
  obtain ⟨e, rfl⟩ := Nat.exists_eq_add_of_le' ht
  rw [intDiv_eq_floor, round_eq, Nat.add_sub_cancel]
  push_cast
  rw [add_div, pow_succ]
  field_simp

theorem trigRound_eq_round (t : ℕ) (v : ℤ) : trigRound t v = round ((v : ℝ) / 2 ^ 96 * 2 ^ t) := by
  have h := roundDiv_eq_round (v * (2 ^ t : ℕ)) (t := trigBits) (by decide)
  unfold trigRound
  rw [h, show trigBits = 96 from rfl]
  push_cast
  rw [mul_div_right_comm]

/-! ### The roots of unity of the ROM -/

/-- The angle of `quarterRoot n`. -/
noncomputable def quarterAngle (n : ℕ) : ℝ := Real.pi / 2 ^ (n + 1)

theorem quarterAngle_succ (n : ℕ) : 2 * quarterAngle (n + 1) = quarterAngle n := by
  unfold quarterAngle
  rw [pow_succ _ (n + 1)]
  field_simp

theorem quarterAngle_pos (n : ℕ) : 0 < quarterAngle n := div_pos Real.pi_pos (by positivity)

theorem quarterAngle_le (n : ℕ) : quarterAngle n ≤ Real.pi / 2 :=
  div_le_div_of_nonneg_left Real.pi_pos.le two_pos (le_self_pow₀ one_le_two (Nat.succ_ne_zero n))

theorem cos_quarterAngle_nonneg (n : ℕ) : 0 ≤ Real.cos (quarterAngle n) :=
  Real.cos_nonneg_of_mem_Icc ⟨by linarith [quarterAngle_pos n, Real.pi_pos], quarterAngle_le n⟩

/-- The half-angle formulas. -/
theorem sq_cos_quarterAngle_succ (n : ℕ) :
    Real.cos (quarterAngle (n + 1)) ^ 2 = (1 + Real.cos (quarterAngle n)) / 2 := by
  rw [Real.cos_sq, quarterAngle_succ]
  ring

theorem sq_sin_quarterAngle_succ (n : ℕ) :
    Real.sin (quarterAngle (n + 1)) ^ 2 = (1 - Real.cos (quarterAngle n)) / 2 := by
  rw [Real.sin_sq, sq_cos_quarterAngle_succ]
  ring

theorem sin_quarterAngle_lower (n : ℕ) : 1 / 2 ^ n ≤ Real.sin (quarterAngle n) := by
  have h := Real.mul_le_sin (quarterAngle_pos n).le (quarterAngle_le n)
  have hangle : 2 / Real.pi * quarterAngle n = 1 / 2 ^ n := by
    unfold quarterAngle
    have := Real.pi_ne_zero
    rw [pow_succ]
    field_simp
  rwa [hangle] at h

/-- Obligations.IsqrtIsFloorOfRoot as a bound on real numbers. -/
theorem isqrt_bounds (v : ℕ) : ((isqrt v : ℕ) : ℝ) ^ 2 ≤ v ∧ (v : ℝ) < ((isqrt v : ℕ) + 1 : ℝ) ^ 2 := by
  obtain ⟨hle, hlt⟩ := isqrtIsFloorOfRoot v
  rw [sq, sq]
  exact ⟨mod_cast hle, mod_cast hlt⟩

/-- No fixed-point cosine is above 1, so that the difference under the sine's root is no truncated one. -/
theorem quarterRoot_fst_le (n : ℕ) : (quarterRoot n).1 ≤ 2 ^ 96 := by
  induction n with
  | zero => exact Nat.zero_le _
  | succ n ih =>
    have hv : (2 ^ trigBits + (quarterRoot n).1) * 2 ^ trigBits / 2 ≤ 2 ^ 96 * 2 ^ 96 := by
      rw [show trigBits = 96 from rfl]
      omega
    exact Nat.mul_self_le_mul_self_iff.1 ((isqrtIsFloorOfRoot _).1.trans hv)

/-- What the two roots of the half-angle formula come to (the products are even, so that nothing is lost before the
root). -/
theorem quarterRoot_succ_bounds (n : ℕ) :
    (((quarterRoot (n + 1)).1 : ℝ) ^ 2 ≤ (2 ^ 96 + (quarterRoot n).1) * 2 ^ 95 ∧
      (2 ^ 96 + (quarterRoot n).1) * 2 ^ 95 < ((quarterRoot (n + 1)).1 + 1 : ℝ) ^ 2) ∧
    (((quarterRoot (n + 1)).2 : ℝ) ^ 2 ≤ (2 ^ 96 - (quarterRoot n).1) * 2 ^ 95 ∧
      (2 ^ 96 - (quarterRoot n).1) * 2 ^ 95 < ((quarterRoot (n + 1)).2 + 1 : ℝ) ^ 2) := by
  have hhalf (a : ℕ) : a * 2 ^ trigBits / 2 = a * 2 ^ 95 := by
    rw [show trigBits = 95 + 1 from rfl, pow_succ, ← mul_assoc, Nat.mul_div_cancel _ two_pos]
  have hcos := isqrt_bounds ((2 ^ 96 + (quarterRoot n).1) * 2 ^ 95)
  have hsin := isqrt_bounds ((2 ^ 96 - (quarterRoot n).1) * 2 ^ 95)
  rw [Nat.cast_mul, Nat.cast_sub (quarterRoot_fst_le n)] at hsin
  simp only [Nat.cast_mul, Nat.cast_add, Nat.cast_pow, Nat.cast_ofNat] at hcos hsin
  simp only [quarterRoot, hhalf]
  exact ⟨hcos, hsin⟩

/-- The cosines err downwards, by less than two units: the error of one is halved in the next. -/
theorem quarterRoot_cos_bounds (n : ℕ) :
    2 ^ 96 * Real.cos (quarterAngle n) - 2 ≤ (quarterRoot n).1 ∧
      ((quarterRoot n).1 : ℝ) ≤ 2 ^ 96 * Real.cos (quarterAngle n) := by
  induction n with
  | zero => simp [quarterRoot, quarterAngle]
  | succ n ih =>
    obtain ⟨hlo, hhi⟩ := ih
    obtain ⟨⟨hle, hlt⟩, _⟩ := quarterRoot_succ_bounds n
    have hsq := sq_cos_quarterAngle_succ n
    have hcos := cos_quarterAngle_nonneg n
    have hcos' := cos_quarterAngle_nonneg (n + 1)
    constructor
    · have hlarge : 7 / 10 ≤ Real.cos (quarterAngle (n + 1)) := by nlinarith
      have hroot : (2 ^ 96 * Real.cos (quarterAngle (n + 1)) - 1) ^ 2 ≤ ((quarterRoot (n + 1)).1 + 1 : ℝ) ^ 2 := by
        rw [sub_sq, mul_pow, hsq]
        linarith
      linarith [le_of_sq_le_sq hroot (by positivity)]
    · refine le_of_sq_le_sq ?_ (by positivity)
      rw [mul_pow, hsq]
      linarith

/-- The sines inherit the cosines' error, divided by the sine. -/
theorem quarterRoot_sin_bounds (n : ℕ) :
    2 ^ 96 * Real.sin (quarterAngle n) - 2 ^ n ≤ (quarterRoot n).2 ∧
      ((quarterRoot n).2 : ℝ) ≤ 2 ^ 96 * Real.sin (quarterAngle n) + 2 ^ n := by
  cases n with
  | zero => norm_num [quarterRoot, quarterAngle, trigBits]
  | succ n =>
    obtain ⟨hlo, hhi⟩ := quarterRoot_cos_bounds n
    obtain ⟨_, hle, hlt⟩ := quarterRoot_succ_bounds n
    have hsq := sq_sin_quarterAngle_succ n
    have hsin := sin_quarterAngle_lower (n + 1)
    have hpow : (1 : ℝ) ≤ 2 ^ (n + 1) := one_le_pow₀ one_le_two
    have hunit : 1 ≤ Real.sin (quarterAngle (n + 1)) * 2 ^ (n + 1) := (div_le_iff₀ (by positivity)).1 hsin
    have hpos : 0 ≤ Real.sin (quarterAngle (n + 1)) := le_trans (by positivity) hsin
    constructor
    · have hroot : (2 ^ 96 * Real.sin (quarterAngle (n + 1))) ^ 2 ≤ ((quarterRoot (n + 1)).2 + 1 : ℝ) ^ 2 := by
        rw [mul_pow, hsq]
        linarith
      linarith [le_of_sq_le_sq hroot (by positivity)]
    · refine le_of_sq_le_sq ?_ (by positivity)
      calc ((quarterRoot (n + 1)).2 : ℝ) ^ 2
        _ ≤ (2 ^ 96 - (quarterRoot n).1) * 2 ^ 95 := hle
        _ ≤ (2 ^ 96 * Real.sin (quarterAngle (n + 1))) ^ 2 + 2 ^ 96 := by rw [mul_pow, hsq]; linarith
        _ ≤ (2 ^ 96 * Real.sin (quarterAngle (n + 1)) + 2 ^ (n + 1)) ^ 2 := by
          rw [add_sq]
          nlinarith [sq_nonneg ((2 : ℝ) ^ (n + 1))]

/-- (cos, sin) of `quarterAngle n` in fixed point. -/
def quarterRootInt (n : ℕ) : CInt := { re := (quarterRoot n).1, im := (quarterRoot n).2 }

/-- The floors under both roots leave the modulus at most 1. -/
theorem norm_quarterRoot_le (n : ℕ) : ‖(quarterRootInt n).toComplex‖ ≤ 2 ^ 96 := by
  refine le_of_sq_le_sq ?_ (by positivity)
  rw [CInt.sq_norm_toComplex]
  simp only [quarterRootInt, Int.cast_natCast]
  cases n with
  | zero => norm_num [quarterRoot, trigBits]
  | succ n =>
    obtain ⟨⟨hcos, _⟩, hsin, _⟩ := quarterRoot_succ_bounds n
    linarith

/-- The quarter roots are those of the unit circle, to a few units of their last place. -/
theorem norm_quarterRoot_sub_le (n : ℕ) :
    ‖(quarterRootInt n).toComplex - 2 ^ 96 * Complex.exp (quarterAngle n * Complex.I)‖ ≤ 3 * 2 ^ n := by
  have hpow : (1 : ℝ) ≤ 2 ^ n := one_le_pow₀ one_le_two
  obtain ⟨hclo, hchi⟩ := quarterRoot_cos_bounds n
  obtain ⟨hslo, hshi⟩ := quarterRoot_sin_bounds n
  have hre : |((quarterRoot n).1 : ℝ) - 2 ^ 96 * Real.cos (quarterAngle n)| ≤ 2 * 2 ^ n :=
    abs_le.2 ⟨by linarith, by linarith⟩
  have him : |((quarterRoot n).2 : ℝ) - 2 ^ 96 * Real.sin (quarterAngle n)| ≤ 2 * 2 ^ n :=
    abs_le.2 ⟨by linarith, by linarith⟩
  rw [← ofReal_two_pow]
  refine (norm_le_of_abs_le (r := 2 * 2 ^ n) ?_ ?_).trans (by linarith)
  · rwa [Complex.sub_re, Complex.re_ofReal_mul, Complex.exp_ofReal_mul_I_re]
  · rwa [Complex.sub_im, Complex.im_ofReal_mul, Complex.exp_ofReal_mul_I_im]

/-- A fixed-point product is the product, but for the floors of its components. -/
theorem norm_trigMul_sub_le (a b : CInt) :
    ‖(trigMul a b).toComplex - a.toComplex * b.toComplex / 2 ^ 96‖ ≤ 3 / 2 := by
  have hre := abs_intDiv_sub_le (a.re * b.re - a.im * b.im) (2 ^ trigBits)
  have him := abs_intDiv_sub_le (a.re * b.im + a.im * b.re) (2 ^ trigBits)
  push_cast at hre him
  rw [← ofReal_two_pow]
  refine (norm_le_of_abs_le (r := 1) ?_ ?_).trans_eq (mul_one _)
  · rw [Complex.sub_re, Complex.div_ofReal_re, Complex.mul_re]
    exact hre
  · rw [Complex.sub_im, Complex.div_ofReal_im, Complex.mul_im]
    exact him

/-- The root of unity that `unitRoot l j n` stands for, which sees the low `n` bits of `j`. -/
noncomputable def exactRoot (l j n : ℕ) : ℂ :=
  Complex.exp ((2 * Real.pi * (j % 2 ^ n : ℕ) / 2 ^ l : ℝ) * Complex.I)

theorem norm_exactRoot (l j n : ℕ) : ‖exactRoot l j n‖ = 1 := Complex.norm_exp_ofReal_mul_I _

theorem exactRoot_succ_of_bit {l j n : ℕ} (hn : n + 2 ≤ l) (h : j.testBit n = true) :
    exactRoot l j (n + 1) = exactRoot l j n * Complex.exp (quarterAngle (l - n - 2) * Complex.I) := by
  have hmod : j % 2 ^ (n + 1) = j % 2 ^ n + 2 ^ n := by
    rw [Nat.mod_pow_succ, ← Nat.toNat_testBit, h, Bool.toNat_true, mul_one]
  obtain ⟨k, rfl⟩ := Nat.exists_eq_add_of_le' hn
  unfold exactRoot quarterAngle
  rw [← Complex.exp_add, ← add_mul, ← Complex.ofReal_add, hmod]
  congr 3
  push_cast
  rw [show k + (n + 2) - n - 2 = k by omega]
  field_simp
  ring

theorem exactRoot_succ_of_not_bit {l j n : ℕ} (h : j.testBit n = false) :
    exactRoot l j (n + 1) = exactRoot l j n := by
  have hmod : j % 2 ^ (n + 1) = j % 2 ^ n := by
    rw [Nat.mod_pow_succ, ← Nat.toNat_testBit, h, Bool.toNat_false, mul_zero, add_zero]
  rw [exactRoot, hmod, exactRoot]

/-- The errors of two factors add up in their product, if neither has a modulus above 1. -/
theorem norm_trigMul_sub_mul_le {a b : CInt} {x y : ℂ} {u v : ℝ} (hx : ‖x‖ = 1) (hb : ‖b.toComplex‖ ≤ 2 ^ 96)
    (hax : ‖a.toComplex - 2 ^ 96 * x‖ ≤ u) (hby : ‖b.toComplex - 2 ^ 96 * y‖ ≤ v) :
    ‖(trigMul a b).toComplex - 2 ^ 96 * (x * y)‖ ≤ u + v + 3 / 2 := by
  have hsplit : (trigMul a b).toComplex - 2 ^ 96 * (x * y) =
      (trigMul a b).toComplex - a.toComplex * b.toComplex / 2 ^ 96 +
        ((a.toComplex - 2 ^ 96 * x) * (b.toComplex / 2 ^ 96) + x * (b.toComplex - 2 ^ 96 * y)) := by ring
  have hb' : ‖b.toComplex / 2 ^ 96‖ ≤ 1 := by
    rw [norm_div, norm_pow, Complex.norm_ofNat]
    exact div_le_one_of_le₀ hb (by positivity)
  have hfirst : ‖(a.toComplex - 2 ^ 96 * x) * (b.toComplex / 2 ^ 96)‖ ≤ u := by
    rw [norm_mul]
    exact (mul_le_of_le_one_right (norm_nonneg _) hb').trans hax
  have hsecond : ‖x * (b.toComplex - 2 ^ 96 * y)‖ ≤ v := by
    rw [norm_mul, hx, one_mul]
    exact hby
  rw [hsplit]
  exact (norm_add_le_of_le (norm_trigMul_sub_le a b) (norm_add_le_of_le hfirst hsecond)).trans_eq (add_comm _ _)

theorem unitRoot_zero_toComplex (l j : ℕ) : (unitRoot l j 0).toComplex = 2 ^ 96 * exactRoot l j 0 := by
  have hroot : exactRoot l j 0 = 1 := by simp [exactRoot, Nat.mod_one]
  rw [hroot, mul_one, ← ofReal_two_pow]
  apply Complex.ext <;> norm_num [unitRoot, trigBits]

/-- Each factor adds its own error and that of the product. -/
theorem norm_unitRoot_sub_le {l : ℕ} (hl : l ≤ 14) (j : ℕ) {n : ℕ} (hn : n + 1 ≤ l) :
    ‖(unitRoot l j n).toComplex - 2 ^ 96 * exactRoot l j n‖ ≤ n * 2 ^ 14 := by
  induction n with
  | zero => rw [unitRoot_zero_toComplex, sub_self, norm_zero]; positivity
  | succ n ih =>
    have ih := ih (by omega)
    push_cast
    cases hbit : j.testBit n with
    | false =>
      rw [exactRoot_succ_of_not_bit hbit, unitRoot, hbit, if_neg Bool.false_ne_true]
      exact ih.trans (by linarith)
    | true =>
      rw [exactRoot_succ_of_bit hn hbit, unitRoot, hbit, if_pos rfl]
      have hsize : (2 : ℝ) ^ (l - n - 2) ≤ 2 ^ 12 := pow_le_pow_right₀ one_le_two (by omega)
      have hprod := norm_trigMul_sub_mul_le (norm_exactRoot l j n) (norm_quarterRoot_le (l - n - 2)) ih
        (norm_quarterRoot_sub_le (l - n - 2))
      exact hprod.trans (by linarith)

/-- The ROM's roots of unity err in less than the last 18 of their 96 fraction bits. -/
theorem norm_unitRoot_last_sub_le {l : ℕ} (hlo : 1 ≤ l) (hl : l ≤ 14) (j : ℕ) :
    ‖(unitRoot l j (l - 1)).toComplex - 2 ^ 96 * exactRoot l j (l - 1)‖ ≤ 2 ^ 18 := by
  have h := norm_unitRoot_sub_le hl j (n := l - 1) (by omega)
  have hn : ((l - 1 : ℕ) : ℝ) ≤ 13 := by exact_mod_cast (by omega : l - 1 ≤ 13)
  exact h.trans (by linarith)

theorem norm_unitRoot_le {l : ℕ} (hlo : 1 ≤ l) (hl : l ≤ 14) (j : ℕ) :
    ‖(unitRoot l j (l - 1)).toComplex‖ ≤ 2 ^ 96 + 2 ^ 18 := by
  have hexact : ‖2 ^ 96 * exactRoot l j (l - 1)‖ = 2 ^ 96 := by
    rw [norm_mul, norm_exactRoot, mul_one, norm_pow, Complex.norm_ofNat]
  linarith [norm_unitRoot_last_sub_le hlo hl j,
    norm_le_norm_add_norm_sub' (unitRoot l j (l - 1)).toComplex (2 ^ 96 * exactRoot l j (l - 1))]

/-- The components of a root of the ROM are near the cosine and the sine of R171. -/
theorem unitRoot_close {l j : ℕ} (hlo : 1 ≤ l) (hl : l ≤ 14) (hj : j < 2 ^ (l - 1)) :
    |((unitRoot l j (l - 1)).re : ℝ) - 2 ^ 96 * Real.cos (2 * Real.pi * j / 2 ^ l)| ≤ 2 ^ 18 ∧
      |((unitRoot l j (l - 1)).im : ℝ) - 2 ^ 96 * Real.sin (2 * Real.pi * j / 2 ^ l)| ≤ 2 ^ 18 := by
  have hclose := norm_unitRoot_last_sub_le hlo hl j
  have hre := (Complex.abs_re_le_norm _).trans hclose
  have him := (Complex.abs_im_le_norm _).trans hclose
  rw [exactRoot, Nat.mod_eq_of_lt hj, ← ofReal_two_pow] at hre him
  rw [Complex.sub_re, Complex.re_ofReal_mul, Complex.exp_ofReal_mul_I_re] at hre
  rw [Complex.sub_im, Complex.im_ofReal_mul, Complex.exp_ofReal_mul_I_im] at him
  exact ⟨hre, him⟩

/-! ### The modulus of a twiddle -/

/-- A twiddle as a complex number, before it is rounded: the root of unity, conjugated and scaled to P_T fraction bits. -/
noncomputable def scaledRoot (c : Config) (j : ℕ) : ℂ :=
  ((2 ^ c.twBits / 2 ^ 96 : ℝ) : ℂ) * (starRingEnd ℂ) (unitRoot c.lgN j (c.lgN - 1)).toComplex

theorem norm_twiddle_sub_le (c : Config) (j : ℕ) : ‖(twiddle c j).toComplex - scaledRoot c j‖ ≤ 3 / 4 := by
  have hround (v : ℤ) : |(trigRound c.twBits v : ℝ) - 2 ^ c.twBits / 2 ^ 96 * v| ≤ 1 / 2 := by
    rw [trigRound_eq_round, abs_sub_comm, show (2 : ℝ) ^ c.twBits / 2 ^ 96 * v = v / 2 ^ 96 * 2 ^ c.twBits by ring]
    exact abs_sub_round _
  refine (norm_le_of_abs_le (r := 1 / 2) ?_ ?_).trans (by norm_num)
  · rw [scaledRoot, Complex.sub_re, Complex.re_ofReal_mul, Complex.conj_re]
    exact hround _
  · rw [scaledRoot, Complex.sub_im, Complex.im_ofReal_mul, Complex.conj_im, CInt.toComplex_im, CInt.toComplex_im,
      ← Int.cast_neg]
    exact hround _

theorem norm_scaledRoot_le {c : Config} (hlo : 1 ≤ c.lgN) (hl : c.lgN ≤ 14) (ht : c.twBits ≤ 30) (j : ℕ) :
    ‖scaledRoot c j‖ ≤ 2 ^ c.twBits + 1 / 4 := by
  have hroot := norm_unitRoot_le hlo hl j
  have hpow : (2 : ℝ) ^ c.twBits ≤ 2 ^ 30 := pow_le_pow_right₀ one_le_two ht
  have hfactor : (0 : ℝ) ≤ 2 ^ c.twBits / 2 ^ 96 := by positivity
  rw [scaledRoot, norm_mul, Complex.norm_of_nonneg hfactor, RCLike.norm_conj]
  calc (2 : ℝ) ^ c.twBits / 2 ^ 96 * ‖(unitRoot c.lgN j (c.lgN - 1)).toComplex‖
    _ ≤ 2 ^ c.twBits / 2 ^ 96 * (2 ^ 96 + 2 ^ 18) := mul_le_mul_of_nonneg_left hroot hfactor
    _ ≤ 2 ^ c.twBits + 1 / 4 := by linarith

/-- The modulus of a twiddle is 2^P_T but for a unit of its last place, in every configuration (R171, R177). -/
theorem norm_twiddle_le {c : Config} (hlo : 1 ≤ c.lgN) (hl : c.lgN ≤ 14) (ht : c.twBits ≤ 30) (j : ℕ) :
    ‖(twiddle c j).toComplex‖ ≤ 2 ^ c.twBits + 1 := by
  linarith [norm_twiddle_sub_le c j, norm_scaledRoot_le hlo hl ht j,
    norm_le_norm_add_norm_sub' (twiddle c j).toComplex (scaledRoot c j)]

/-! ### The entries of R171 -/

/-- A fixed-point value rounds to what it stands for, if it is not so near a tie that its error could matter. -/
theorem trigRound_eq_of_close {t : ℕ} {v : ℤ} {x : ℝ} (hx : |(v : ℝ) - 2 ^ 96 * x| ≤ 2 ^ 18)
    (hlo : trigRound t (v - 2 ^ 18) = trigRound t v) (hhi : trigRound t (v + 2 ^ 18) = trigRound t v) :
    trigRound t v = ⌊x * 2 ^ t + 1 / 2⌋ := by
  obtain ⟨hle, hge⟩ := abs_le.1 hx
  have hmono {y z : ℝ} (h : y ≤ z) : ⌊y * 2 ^ t + 1 / 2⌋ ≤ ⌊z * 2 ^ t + 1 / 2⌋ := by gcongr
  rw [trigRound_eq_round, round_eq] at hlo hhi
  apply le_antisymm
  · rw [← hlo]
    refine hmono ((div_le_iff₀ (by positivity)).2 ?_)
    push_cast
    linarith
  · rw [← hhi]
    refine hmono ((le_div_iff₀ (by positivity)).2 ?_)
    push_cast
    linarith

/-- At N = 256 and P_T = 15 no entry of the ROM is near a tie. -/
theorem trigRound_steady : ∀ j < 128, ∀ v ∈ [(unitRoot 8 j 7).re, -(unitRoot 8 j 7).im],
    trigRound 15 (v - 2 ^ 18) = trigRound 15 v ∧ trigRound 15 (v + 2 ^ 18) = trigRound 15 v := by decide +kernel

/-- Settles O57: the roots of unity are close enough to the circle for each entry to round as the rule's does. -/
theorem twiddlesAreRoundedCosines : Obligations.TwiddlesAreRoundedCosines := by
  intro c j hl ht hj
  obtain ⟨hre, him⟩ := unitRoot_close (l := 8) (by omega) (by omega) hj
  rw [abs_sub_comm, ← neg_sub_neg, ← mul_neg, ← Int.cast_neg] at him
  obtain ⟨hreLo, hreHi⟩ := trigRound_steady j hj _ (List.mem_cons_self ..)
  obtain ⟨himLo, himHi⟩ := trigRound_steady j hj _ (List.mem_cons_of_mem _ (List.mem_singleton_self _))
  rw [show (256 : ℝ) = 2 ^ 8 by norm_num, twiddle, hl, ht]
  exact ⟨trigRound_eq_of_close hre hreLo hreHi, trigRound_eq_of_close him himLo himHi⟩

end Sys2Proof.Machine
end

section
/-! The family of spec/43_transform.md, the indices: the pairs of elements that the butterflies of a stage work on (R174,
R175), and the bit-reversed order of LOAD (R172). -/

namespace Sys2Proof.Machine

open Sys2Proof

/-! ### The butterflies of a stage -/

/-- The top element of butterfly `q` of stage `e + 1`. -/
def topOf (e q : ℕ) : ℕ := q / 2 ^ e * 2 ^ (e + 1) + q % 2 ^ e

/-- The bottom element of butterfly `q` of stage `e + 1`. -/
def botOf (e q : ℕ) : ℕ := topOf e q + 2 ^ e

theorem butterflyAt_succ (c : Config) (e q : ℕ) :
    butterflyAt c (e + 1) q = (topOf e q, botOf e q, twiddle c (q % 2 ^ e * 2 ^ (c.lgN - (e + 1)))) := by
  have hhalf : 2 ^ (e + 1) / 2 = 2 ^ e := by rw [pow_succ, Nat.mul_div_cancel _ two_pos]
  simp only [butterflyAt, hhalf, topOf, botOf]

/-- The two elements of butterfly `q` are in butterfly `q` and in no other. -/
theorem butterflyOf_top_bot (e q : ℕ) :
    butterflyOf (e + 1) (topOf e q) = q ∧ butterflyOf (e + 1) (botOf e q) = q := by
  have hpos : 0 < 2 ^ e := Nat.two_pow_pos e
  have hlt := Nat.mod_lt q hpos
  have hof {k r : ℕ} (hk : k = r + 2 ^ (e + 1) * (q / 2 ^ e)) (hr : r < 2 ^ (e + 1)) (hmod : r % 2 ^ e = q % 2 ^ e) :
      butterflyOf (e + 1) k = q := by
    obtain ⟨hdiv, hrem⟩ := (Nat.div_mod_unique (Nat.two_pow_pos (e + 1))).2 ⟨hk.symm, hr⟩
    have hsmall : k % 2 ^ e = q % 2 ^ e := by
      rw [← Nat.mod_mod_of_dvd k (pow_dvd_pow 2 (Nat.le_succ e)), hrem, hmod]
    rw [butterflyOf, hdiv, Nat.add_sub_cancel, hsmall, Nat.div_add_mod']
  rw [pow_succ] at hof
  constructor
  · refine hof (r := q % 2 ^ e) ?_ (by omega) (Nat.mod_mod _ _)
    rw [topOf, pow_succ]
    ring
  · refine hof (r := q % 2 ^ e + 2 ^ e) ?_ (by omega) (by rw [Nat.add_mod_right, Nat.mod_mod])
    rw [botOf, topOf, pow_succ]
    ring

/-- No other element is in butterfly `q`, so the butterflies of a stage work on disjoint pairs (R175). -/
theorem eq_top_or_bot_of_butterflyOf {e q k : ℕ} (h : butterflyOf (e + 1) k = q) : k = topOf e q ∨ k = botOf e q := by
  have hpos : 0 < 2 ^ e := Nat.two_pow_pos e
  have hq : q / 2 ^ e = k / 2 ^ (e + 1) ∧ q % 2 ^ e = k % 2 ^ e := by
    refine (Nat.div_mod_unique hpos).2 ⟨?_, Nat.mod_lt _ hpos⟩
    rw [← h, butterflyOf, Nat.add_sub_cancel]
    ring
  have hk := Nat.div_add_mod' k (2 ^ (e + 1))
  have hr := Nat.mod_lt k (Nat.two_pow_pos (e + 1))
  have hmod := Nat.mod_mod_of_dvd k (pow_dvd_pow 2 (Nat.le_succ e))
  rw [botOf, topOf, hq.1, hq.2, ← hmod]
  by_cases hlt : k % 2 ^ (e + 1) < 2 ^ e
  · left
    rw [Nat.mod_eq_of_lt hlt, hk]
  · right
    rw [Nat.mod_eq_sub_mod (not_lt.1 hlt), Nat.mod_eq_of_lt (by rw [pow_succ] at hr ⊢; omega)]
    omega

theorem butterflyOf_lt {c : Config} {s k : ℕ} (hs : 1 ≤ s) (hl : s ≤ c.lgN) (hk : k < winLen c) :
    butterflyOf s k < binCount c := by
  obtain ⟨e, rfl⟩ := Nat.exists_eq_add_of_le' hs
  obtain ⟨d, hd⟩ := Nat.exists_eq_add_of_le' hl
  have hbins : binCount c = 2 ^ d * 2 ^ e := by
    rw [binCount, hd, ← add_assoc, pow_succ, Nat.mul_div_cancel _ two_pos, pow_add]
  have hdiv : k / 2 ^ (e + 1) + 1 ≤ 2 ^ d := by
    refine Nat.div_lt_of_lt_mul ?_
    rw [mul_comm, ← pow_add, ← hd]
    exact hk
  have hmod := Nat.mod_lt k (Nat.two_pow_pos e)
  calc butterflyOf (e + 1) k
    _ < (k / 2 ^ (e + 1) + 1) * 2 ^ e := by rw [butterflyOf, Nat.add_sub_cancel, add_one_mul]; omega
    _ ≤ binCount c := by rw [hbins]; exact Nat.mul_le_mul_right _ hdiv

/-! ### The bit reversal -/

theorem testBit_bitrev {l i p : ℕ} (hp : p < l) : (bitrev l i).testBit (l - 1 - p) = i.testBit p := by
  induction l generalizing i p with
  | zero => exact absurd hp (Nat.not_lt_zero p)
  | succ l ih =>
    rw [bitrev, mul_comm, Nat.testBit_two_pow_mul_add _ (bitrev_lt l _)]
    cases p with
    | zero => simp [Nat.testBit_zero]
    | succ p =>
      rw [if_pos (by omega), Nat.testBit_succ, ← ih (i := i / 2) (p := p) (by omega)]
      congr 1
      omega

/-- An index below 2^l whose bits are those of `i` in reverse is the bit reversal of `i`. -/
theorem eq_bitrev_of_testBit {l i k : ℕ} (hk : k < 2 ^ l) (h : ∀ p, p < l → k.testBit (l - 1 - p) = i.testBit p) :
    k = bitrev l i := by
  refine Nat.eq_of_testBit_eq fun q => ?_
  by_cases hq : q < l
  · have hp : l - 1 - q < l := by omega
    have hback : l - 1 - (l - 1 - q) = q := by omega
    have hbit := (h _ hp).trans (testBit_bitrev hp).symm
    rwa [hback] at hbit
  · have hle : 2 ^ l ≤ 2 ^ q := Nat.pow_le_pow_right two_pos (not_lt.1 hq)
    rw [Nat.testBit_eq_false_of_lt (hk.trans_le hle), Nat.testBit_eq_false_of_lt ((bitrev_lt l i).trans_le hle)]

/-- The bit reversal is its own inverse, so every place of the window is loaded once. -/
theorem bitrev_bitrev {l k : ℕ} (hk : k < 2 ^ l) : bitrev l (bitrev l k) = k :=
  (eq_bitrev_of_testBit hk fun p hp => by
    have h := testBit_bitrev (i := k) (p := l - 1 - p) (l := l) (by omega)
    rwa [show l - 1 - (l - 1 - p) = p by omega, eq_comm] at h).symm

end Sys2Proof.Machine
end

section
/-! The family of spec/43_transform.md, the engine's steps: what each of them writes and leaves (R170 to R178, R183). -/

namespace Sys2Proof.Machine

open Sys2Proof

section
variable (c : Config) (b : Block)

/-! ### The steps, register by register -/

theorem engineMove_of_pending {b : Block} (hp : b.engPhase = .idle) (hw : b.pending = true) :
    engineMove c b = .moved (engStart b) [] := by
  simp [engineMove, hp, hw]

theorem engineMove_of_load {b : Block} (hp : b.engPhase = .load) : engineMove c b = .moved (engLoad c b) [] := by
  simp [engineMove, hp]

theorem engineMove_of_fft {b : Block} (hp : b.engPhase = .fft) : engineMove c b = engFft c b := by
  simp [engineMove, hp]

theorem engineMove_of_mag {b : Block} (hp : b.engPhase = .mag) : engineMove c b = .moved (engMag c b) [] := by
  simp [engineMove, hp]

theorem engineMove_of_pub {b : Block} (hp : b.engPhase = .pub) : engineMove c b = .moved (engPub b) [] := by
  simp [engineMove, hp]

/-- The block with sample `engI` of the bank being loaded in its place (R172). -/
def loadedWord : Block := setX b (bitrev c.lgN b.engI) (loadWord c (sbAt b (loadIndex c b b.engI)))

/-- ENG_LOAD (R172, R173). -/
theorem engLoad_eq :
    engLoad c b = { loadedWord c b with
      engI := b.engI + 1
      engStage := if b.engI + 1 = winLen c then 1 else b.engStage
      engQ := if b.engI + 1 = winLen c then 0 else b.engQ
      engPhase := if b.engI + 1 = winLen c then .fft else b.engPhase } := by
  by_cases hl : b.engI + 1 = winLen c
  · simp only [engLoad, if_pos hl]; rfl
  · simp only [engLoad, if_neg hl]; rfl

theorem xAt_engLoad (k : ℕ) :
    xAt (engLoad c b) k =
      if k = bitrev c.lgN b.engI then loadWord c (sbAt b (loadIndex c b b.engI)) else xAt b k := by
  rw [engLoad_eq]
  exact xAt_setX ..

/-- The end of an FFT step: the next butterfly, the next stage, or fft_done() (R175, R176). -/
theorem fftAdvance_eq :
    fftAdvance c b =
      let inStage := b.engQ < binCount c - 1
      let inFft := b.engStage < c.lgN
      { b with
        engQ := if inStage then b.engQ + 1 else if inFft then 0 else b.engQ
        engStage := if inStage then b.engStage else if inFft then b.engStage + 1 else b.engStage
        bankVer := if inStage ∨ inFft then b.bankVer else b.bankVer.set b.front.other (b.version + 1)
        engI := if inStage ∨ inFft then b.engI else 0
        engPhase := if inStage ∨ inFft then b.engPhase else .mag } := by
  by_cases hs : b.engQ < binCount c - 1
  · simp only [fftAdvance, eq_true hs, true_or, if_true]
  · by_cases hf : b.engStage < c.lgN
    · simp only [fftAdvance, if_neg hs, eq_true hf, or_true, if_true]
    · simp only [fftAdvance, eq_false hs, eq_false hf, or_false, if_false]
      rfl

/-- The block after the two words of a butterfly (R174). -/
def butterflyWords (b : Block) (top bot : ℕ) (y : CInt × CInt) : Block :=
  setX (setX b top y.1.toCplx) bot y.2.toCplx

theorem xAt_butterflyWords (top bot : ℕ) (y : CInt × CInt) (k : ℕ) :
    xAt (butterflyWords b top bot y) k =
      if k = bot then y.2.toCplx else if k = top then y.1.toCplx else xAt b k := by
  rw [butterflyWords, xAt_setX, xAt_setX]

theorem fftAdvance_x : (fftAdvance c b).x = b.x := by rw [fftAdvance_eq]

/-- A butterfly writes its two words and the registers of the advance. -/
theorem fftAdvance_butterflyWords_eq {b : Block} (hp : b.engPhase = .fft) (top bot : ℕ) (y : CInt × CInt) :
    fftAdvance c (butterflyWords b top bot y) =
      let inStage := b.engQ < binCount c - 1
      let inFft := b.engStage < c.lgN
      { b with
        x := (fftAdvance c (butterflyWords b top bot y)).x
        engQ := if inStage then b.engQ + 1 else if inFft then 0 else b.engQ
        engStage := if inStage then b.engStage else if inFft then b.engStage + 1 else b.engStage
        bankVer := if inStage ∨ inFft then b.bankVer else b.bankVer.set b.front.other (b.version + 1)
        engI := if inStage ∨ inFft then b.engI else 0
        engPhase := if inStage ∨ inFft then .fft else .mag } := by
  rw [fftAdvance_x, fftAdvance_eq, show (butterflyWords b top bot y).engPhase = .fft from hp]
  rfl

theorem xAt_fftAdvance (k : ℕ) : xAt (fftAdvance c b) k = xAt b k :=
  congrArg (fun m : Memory Cplx => m.get Cplx.zero k) (fftAdvance_x c b)

theorem engFft_of_fits {b : Block} {top bot : ℕ} {w : CInt} (h : butterflyAt c b.engStage b.engQ = (top, bot, w))
    {y : CInt × CInt} (hy : y = butterfly c.twBits w (xAt b top).toInts (xAt b bot).toInts)
    (hfit : y.1.fits = true ∧ y.2.fits = true) :
    engFft c b = .moved (fftAdvance c (butterflyWords b top bot y)) [] := by
  subst hy
  rcases engFft_cases c b h with ⟨_, _, e⟩ | ⟨hover, _⟩
  · exact e
  · rw [Bool.and_eq_true_iff.2 hfit] at hover
    cases hover

theorem engFft_of_not_fits {b : Block} {top bot : ℕ} {w : CInt} (h : butterflyAt c b.engStage b.engQ = (top, bot, w))
    {y : CInt × CInt} (hy : y = butterfly c.twBits w (xAt b top).toInts (xAt b bot).toInts)
    (hfit : ¬(y.1.fits = true ∧ y.2.fits = true)) : engFft c b = .overflow := by
  subst hy
  rcases engFft_cases c b h with ⟨hu, hx, _⟩ | ⟨_, e⟩
  · exact absurd ⟨hu, hx⟩ hfit
  · exact e

/-- ENG_MAG (R178). -/
theorem engMag_eq :
    engMag c b = { setRb b b.front.other b.engI (magWord c (xAt b b.engI)) with
      engI := b.engI + 1
      engPhase := if b.engI + 1 = binCount c then .pub else b.engPhase } := by
  by_cases hl : b.engI + 1 = binCount c
  · simp only [engMag, if_pos hl]
  · simp only [engMag, if_neg hl]; rfl

theorem rbAt_engMag (bank : Bank) (k : ℕ) :
    rbAt (engMag c b) bank k =
      if bank = b.front.other ∧ k = b.engI then magWord c (xAt b b.engI) else rbAt b bank k := by
  rw [engMag_eq]
  exact rbAt_setRb ..

end

/-! ### The statements -/

/-- Settles O29, by whether the bank is complete. -/
theorem engStartTakesOrSkips : Obligations.EngStartTakesOrSkips := by
  intro s hv hp hw
  have hstart := moves_of_agentMove (a := .engine) hv (by simp) (engineMove_of_pending s.cfg hp hw)
  unfold engStart at hstart
  split_ifs at hstart ⊢ with hok <;> exact hstart

/-- Settles O30: the one index with the reversed bits is `bitrev` of the sample's. -/
theorem engLoadCopiesSample : Obligations.EngLoadCopiesSample := by
  intro s hv hp i last reversed
  have hrev (k : ℕ) : reversed k ↔ k = bitrev s.cfg.lgN i := by
    refine ⟨fun ⟨hlt, hbits⟩ => eq_bitrev_of_testBit hlt hbits, ?_⟩
    rintro rfl
    exact ⟨bitrev_lt .., fun p hlt => testBit_bitrev hlt⟩
  refine ⟨engLoad s.cfg s.blk, moves_of_agentMove hv (by simp) (engineMove_of_load s.cfg hp), ⟨_, (hrev _).2 rfl⟩,
    fun k hk => ?_, fun k hk => ?_, ?_⟩
  · rw [xAt_engLoad, if_pos ((hrev k).1 hk)]
    rfl
  · rw [xAt_engLoad, if_neg fun he => hk ((hrev k).2 he)]
  · rw [engLoad_eq, hp]
    rfl

/-- Settles O31: the butterfly's four components are the ones checked, and `fftAdvance_butterflyWords_eq` says what else
changes. -/
theorem engFftRunsButterfly : Obligations.EngFftRunsButterfly := by
  intro s hv hp c m h top bot w ur ui xr xi tr ti inStage inFft
  have hbfly : butterflyAt c s.blk.engStage s.blk.engQ = (top, bot, w) := rfl
  obtain ⟨y, hy⟩ : ∃ y, y = butterfly c.twBits w (xAt s.blk top).toInts (xAt s.blk bot).toInts := ⟨_, rfl⟩
  have hwords : y = (⟨ur + tr, ui + ti⟩, ⟨ur - tr, ui - ti⟩) := by
    simp only [hy, butterfly, cmul, Cplx.toInts, Nat.cast_pow, Nat.cast_ofNat]
    rfl
  have hfits : (y.1.fits = true ∧ y.2.fits = true) ↔
      ∀ v ∈ [ur + tr, ui + ti, ur - tr, ui - ti], -2 ^ 31 ≤ v ∧ v < 2 ^ 31 := by
    rw [hwords]
    simp [CInt.fits, fitsInt32, and_assoc]
  by_cases hin : ∀ v ∈ [ur + tr, ui + ti, ur - tr, ui - ti], -2 ^ 31 ≤ v ∧ v < 2 ^ 31
  · rw [if_pos hin]
    have hmove := engFft_of_fits c hbfly hy (hfits.2 hin)
    refine ⟨_, moves_of_agentMove hv (by simp) ((engineMove_of_fft c hp).trans hmove), fun k => ?_, ?_⟩
    · rw [xAt_fftAdvance, xAt_butterflyWords, hwords]
      rfl
    · exact fftAdvance_butterflyWords_eq c hp top bot y
  · rw [if_neg hin]
    have hmove : agentMove s.cfg .engine s.blk = .overflow :=
      (engineMove_of_fft c hp).trans (engFft_of_not_fits c hbfly hy (mt hfits.1 hin))
    rw [step_of_valid (s := s.withNext .engine) hv, State.nextAction_withNext, State.popAction_withNext,
      runAction_of_agent (by simp), hmove]
    rfl

/-- Settles O32: `rbAt_engMag` gives every result word, and `engMag_eq` and the definition of PUB the rest. -/
theorem engMagAndPub : Obligations.EngMagAndPub := by
  intro s hv c re im
  refine ⟨fun hp => ?_, fun hp => ?_⟩
  · refine ⟨engMag c s.blk, moves_of_agentMove hv (by simp) (engineMove_of_mag c hp), rbAt_engMag c s.blk, ?_⟩
    rw [engMag_eq, hp]
    rfl
  · exact moves_of_agentMove hv (by simp) (engineMove_of_pub c hp)

end Sys2Proof.Machine
end

section
/-! The family of spec/43_transform.md, the bound of R177: what a butterfly adds to the modulus of its elements, and that the
bound of the last stage is inside SInt_32 in every valid configuration. -/

namespace Sys2Proof.Machine

open Sys2Proof

/-! ### What a butterfly does to the moduli of its elements -/

/-- The rounded product of R166 is the product but for its rounding. -/
theorem norm_cmul_sub_le {t : ℕ} (ht : 1 ≤ t) (w x : CInt) :
    ‖(cmul t w x).toComplex - w.toComplex * x.toComplex / 2 ^ t‖ ≤ 3 / 4 := by
  have hround (a : ℤ) : |(((a + (2 ^ (t - 1) : ℕ)) / (2 ^ t : ℕ) : ℤ) : ℝ) - a / 2 ^ t| ≤ 1 / 2 := by
    rw [roundDiv_eq_round a ht, abs_sub_comm]
    exact abs_sub_round _
  have hre := hround (w.re * x.re - w.im * x.im)
  have him := hround (w.re * x.im + w.im * x.re)
  simp only [Int.cast_sub, Int.cast_add, Int.cast_mul] at hre him
  rw [← ofReal_two_pow]
  refine (norm_le_of_abs_le (r := 1 / 2) ?_ ?_).trans (by norm_num)
  · rw [Complex.sub_re, Complex.div_ofReal_re, Complex.mul_re]
    exact hre
  · rw [Complex.sub_im, Complex.div_ofReal_im, Complex.mul_im]
    exact him

/-- A twiddle turns an element without stretching it by more than a unit of the ROM's last place. -/
theorem norm_cmul_le {t : ℕ} (ht : 1 ≤ t) {w x : CInt} {m : ℝ} (hw : ‖w.toComplex‖ ≤ 2 ^ t + 1)
    (hx : ‖x.toComplex‖ ≤ m) : ‖(cmul t w x).toComplex‖ ≤ (1 + 1 / 2 ^ t) * m + 3 / 4 := by
  have hprod : ‖w.toComplex * x.toComplex / 2 ^ t‖ ≤ (1 + 1 / 2 ^ t) * m := by
    rw [norm_div, norm_mul, norm_pow, Complex.norm_ofNat, div_le_iff₀ (by positivity)]
    calc ‖w.toComplex‖ * ‖x.toComplex‖
      _ ≤ (2 ^ t + 1) * m := mul_le_mul hw hx (norm_nonneg _) (by positivity)
      _ = (1 + 1 / 2 ^ t) * m * 2 ^ t := by field_simp
  linarith [norm_le_norm_add_norm_sub' (cmul t w x).toComplex (w.toComplex * x.toComplex / 2 ^ t),
    norm_cmul_sub_le ht w x]

theorem butterfly_toComplex (t : ℕ) (w u x : CInt) :
    (butterfly t w u x).1.toComplex = u.toComplex + (cmul t w x).toComplex ∧
      (butterfly t w u x).2.toComplex = u.toComplex - (cmul t w x).toComplex := by
  constructor <;> apply Complex.ext <;> simp [butterfly]

/-- Where the elements have the bound `m`, `m + 1` grows by no more than the factor of the bound's stages. -/
theorem norm_butterfly_le {t : ℕ} (ht : 1 ≤ t) {w u x : CInt} {m : ℝ} (hw : ‖w.toComplex‖ ≤ 2 ^ t + 1)
    (hu : ‖u.toComplex‖ ≤ m) (hx : ‖x.toComplex‖ ≤ m) :
    ‖(butterfly t w u x).1.toComplex‖ ≤ (2 + 1 / 2 ^ t) * (m + 1) - 1 ∧
      ‖(butterfly t w u x).2.toComplex‖ ≤ (2 + 1 / 2 ^ t) * (m + 1) - 1 := by
  obtain ⟨hadd, hsub⟩ := butterfly_toComplex t w u x
  have hsum : m + ((1 + 1 / 2 ^ t) * m + 3 / 4) ≤ (2 + 1 / 2 ^ t) * (m + 1) - 1 := by
    have : (0 : ℝ) ≤ 1 / 2 ^ t := by positivity
    linarith
  rw [hadd, hsub]
  exact ⟨(norm_add_le_of_le hu (norm_cmul_le ht hw hx)).trans hsum,
    (norm_sub_le_of_le hu (norm_cmul_le ht hw hx)).trans hsum⟩

/-! ### The bound of a stage -/

/-- The constraints of spec/00_scope.md R5 and R6 on the transform's parameters. -/
theorem ranges_of_transform {c : Config} (h : configValid c = true) :
    (2 ≤ c.lgN ∧ c.lgN ≤ 14) ∧ (2 ≤ c.twBits ∧ c.twBits ≤ 30) ∧ c.lgN ≤ c.twBits ∧
      c.lgN + c.sampleBits + c.guardBits ≤ 29 ∧ c.resBits ≤ 29 := by
  simp only [configValid, between, List.all_cons, List.all_nil, id, Bool.and_eq_true, Nat.ble_eq, and_true] at h
  omega

theorem stageBound_succ (c : Config) (n : ℕ) :
    stageBound c (n + 1) = (2 + 1 / 2 ^ c.twBits) * (stageBound c n + 1) - 1 := by
  simp only [stageBound, pow_succ]
  ring

theorem stageBound_mono (c : Config) {m n : ℕ} (h : m ≤ n) : stageBound c m ≤ stageBound c n := by
  have hbase : (1 : ℚ) ≤ 2 + 1 / 2 ^ c.twBits := by
    have : (0 : ℚ) ≤ 1 / 2 ^ c.twBits := by positivity
    linarith
  exact sub_le_sub_right (mul_le_mul_of_nonneg_right (pow_le_pow_right₀ hbase h) (by positivity)) 1

theorem stageBound_nonneg (c : Config) (n : ℕ) : 0 ≤ stageBound c n := by
  refine le_trans ?_ (stageBound_mono c (Nat.zero_le n))
  have : (1 : ℚ) ≤ 2 ^ (c.sampleBits + c.guardBits) := one_le_pow₀ one_le_two
  simp only [stageBound, pow_zero, one_mul]
  linarith

/-- With P_T ≥ P_L the roundings of all the stages together do not double the bound (R177). -/
theorem one_add_pow_le_two {l t : ℕ} (h : l ≤ t) : (1 + 1 / 2 ^ (t + 1) : ℚ) ^ l ≤ 2 := by
  set x : ℚ := 1 / 2 ^ (t + 1) with hx
  have hxpos : 0 < x := by positivity
  have hlx : (l : ℚ) * x ≤ 1 / 2 := by
    have hl : (l : ℚ) ≤ 2 ^ t := by exact_mod_cast (h.trans Nat.lt_two_pow_self.le)
    rw [hx, mul_one_div, div_le_div_iff₀ (by positivity) two_pos, pow_succ]
    linarith
  have hxle : x ≤ 1 := div_le_one_of_le₀ (one_le_pow₀ one_le_two) (by positivity)
  have hbernoulli : 1 / 2 ≤ (1 - x) ^ l := by
    have := one_add_mul_le_pow (a := -x) (by linarith) l
    rw [← sub_eq_add_neg] at this
    linarith
  have hprod : (1 + x) ^ l * (1 - x) ^ l ≤ 1 := by
    rw [← mul_pow]
    exact pow_le_one₀ (by nlinarith) (by nlinarith)
  have : 0 ≤ (1 + x) ^ l := by positivity
  nlinarith

/-- The stages double the modulus P_L times, and their roundings together double it at most once more (R177). -/
theorem stageBound_last_lt {c : Config} (h : c.lgN ≤ c.twBits) :
    stageBound c c.lgN < 2 ^ (c.lgN + c.sampleBits + c.guardBits + 1) := by
  have hfactor : (2 + 1 / 2 ^ c.twBits : ℚ) = 2 * (1 + 1 / 2 ^ (c.twBits + 1)) := by
    rw [pow_succ]
    field_simp
  have hgrow := one_add_pow_le_two h
  calc stageBound c c.lgN
    _ = 2 ^ c.lgN * 2 ^ (c.sampleBits + c.guardBits) * (1 + 1 / 2 ^ (c.twBits + 1)) ^ c.lgN - 1 := by
        rw [stageBound, hfactor, mul_pow]
        ring
    _ ≤ 2 ^ c.lgN * 2 ^ (c.sampleBits + c.guardBits) * 2 - 1 := by gcongr
    _ < 2 ^ (c.lgN + c.sampleBits + c.guardBits + 1) := by
        rw [← pow_add, ← pow_succ, ← add_assoc]
        exact sub_one_lt _

/-- Every stage's bound lies inside SInt_32. -/
theorem stageBound_lt {c : Config} (hv : configValid c = true) {n : ℕ} (hn : n ≤ c.lgN) :
    stageBound c n < 2 ^ 31 := by
  obtain ⟨_, _, htw, hsum, _⟩ := ranges_of_transform hv
  calc stageBound c n
    _ ≤ stageBound c c.lgN := stageBound_mono c hn
    _ < 2 ^ (c.lgN + c.sampleBits + c.guardBits + 1) := stageBound_last_lt htw
    _ ≤ 2 ^ 31 := pow_le_pow_right₀ one_le_two (by omega)

/-! ### Words within a bound -/

/-- The bound of a word as one of the modulus of its complex number. -/
theorem Cplx.within_iff {z : Cplx} {m : ℚ} (hm : 0 ≤ m) : z.within m ↔ ‖z.toInts.toComplex‖ ≤ m := by
  have hm' : (0 : ℝ) ≤ m := by exact_mod_cast hm
  rw [← sq_le_sq₀ (norm_nonneg _) hm', CInt.sq_norm_toComplex, Cplx.within]
  exact_mod_cast Iff.rfl

theorem CInt.fits_of_norm_lt {z : CInt} (h : ‖z.toComplex‖ < 2 ^ 31) : z.fits = true := by
  have hre := abs_lt.1 ((Complex.abs_re_le_norm z.toComplex).trans_lt h)
  have him := abs_lt.1 ((Complex.abs_im_le_norm z.toComplex).trans_lt h)
  rw [CInt.toComplex_re] at hre
  rw [CInt.toComplex_im] at him
  obtain ⟨hreLo, hreHi⟩ := hre
  obtain ⟨himLo, himHi⟩ := him
  simp only [CInt.fits, fitsInt32, Bool.and_eq_true, decide_eq_true_eq, Nat.cast_pow, Nat.cast_ofNat]
  exact ⟨⟨by exact_mod_cast hreLo.le, by exact_mod_cast hreHi⟩, by exact_mod_cast himLo.le, by exact_mod_cast himHi⟩

/-- A pair that fits is what its word holds. -/
theorem CInt.toInts_toCplx {z : CInt} (h : z.fits = true) : z.toCplx.toInts = z := by
  simp only [CInt.fits, fitsInt32, Bool.and_eq_true, decide_eq_true_eq, Nat.cast_pow, Nat.cast_ofNat] at h
  obtain ⟨⟨hre, hre'⟩, him, him'⟩ := h
  have hword {v : ℤ} (hlo : -2 ^ 31 ≤ v) (hhi : v < 2 ^ 31) : (BitVec.ofInt 32 v).toInt = v :=
    BitVec.toInt_ofInt_eq_self (by norm_num) hlo hhi
  simp only [CInt.toCplx, Cplx.toInts, hword hre hre', hword him him']

/-- A butterfly takes two elements within the bound of a stage to two words within that of the next (R177). -/
theorem butterfly_within {c : Config} (hv : configValid c = true) {n j : ℕ} (hn : n + 1 ≤ c.lgN) {u x : Cplx}
    (hu : u.within (stageBound c n)) (hx : x.within (stageBound c n)) {y : CInt × CInt}
    (hy : y = butterfly c.twBits (twiddle c j) u.toInts x.toInts) :
    (y.1.fits = true ∧ y.1.toCplx.within (stageBound c (n + 1))) ∧
      (y.2.fits = true ∧ y.2.toCplx.within (stageBound c (n + 1))) := by
  obtain ⟨⟨hlo, hhi⟩, ⟨htlo, hthi⟩, _⟩ := ranges_of_transform hv
  have hpos := stageBound_nonneg c (n + 1)
  rw [Cplx.within_iff (stageBound_nonneg c n)] at hu hx
  have hlt : ((stageBound c (n + 1) : ℚ) : ℝ) < 2 ^ 31 := by exact_mod_cast stageBound_lt hv hn
  have hnext : (2 + 1 / 2 ^ c.twBits) * ((stageBound c n : ℝ) + 1) - 1 = (stageBound c (n + 1) : ℚ) := by
    rw [stageBound_succ]
    push_cast
    rfl
  have hword {z : CInt} (hz : ‖z.toComplex‖ ≤ (stageBound c (n + 1) : ℚ)) :
      z.fits = true ∧ z.toCplx.within (stageBound c (n + 1)) := by
    have hfit := CInt.fits_of_norm_lt (hz.trans_lt hlt)
    exact ⟨hfit, (Cplx.within_iff hpos).2 (by rwa [CInt.toInts_toCplx hfit])⟩
  have hnorm := norm_butterfly_le (by omega) (norm_twiddle_le (by omega) hhi hthi j) hu hx
  rw [hnext, ← hy] at hnorm
  exact ⟨hword hnorm.1, hword hnorm.2⟩

/-- A loaded word is within the bound of stage 0: P_B bits shifted by P_G. -/
theorem loadWord_within {c : Config} (hv : configValid c = true) {v : Sample} (h : v.toNat < 2 ^ c.sampleBits) :
    (loadWord c v).within (stageBound c 0) := by
  obtain ⟨_, _, _, hsum, _⟩ := ranges_of_transform hv
  have hlt : v.toNat * 2 ^ c.guardBits < 2 ^ (c.sampleBits + c.guardBits) := by
    rw [pow_add]
    exact Nat.mul_lt_mul_of_pos_right h (Nat.two_pow_pos _)
  have hsmall : 2 ^ (c.sampleBits + c.guardBits) ≤ 2 ^ 29 := Nat.pow_le_pow_right two_pos (by omega)
  have hnat : (BitVec.ofNat 32 (v.toNat * 2 ^ c.guardBits)).toNat = v.toNat * 2 ^ c.guardBits := by
    rw [BitVec.toNat_ofNat, Nat.mod_eq_of_lt (by omega)]
  have hint : (BitVec.ofNat 32 (v.toNat * 2 ^ c.guardBits)).toInt = (v.toNat * 2 ^ c.guardBits : ℕ) := by
    rw [BitVec.toInt_eq_toNat_of_lt (by rw [hnat]; omega), hnat]
  have hbound : ((v.toNat * 2 ^ c.guardBits : ℕ) : ℚ) + 1 ≤ 2 ^ (c.sampleBits + c.guardBits) := by
    exact_mod_cast hlt
  have hzero : (0 : Word).toInt = 0 := rfl
  simp only [loadWord, Cplx.within, hint, hzero, stageBound, pow_zero, one_mul, Int.cast_natCast, Int.cast_zero,
    zero_pow two_ne_zero, add_zero]
  exact pow_le_pow_left₀ (Nat.cast_nonneg _) (le_sub_iff_add_le.2 hbound) 2

end Sys2Proof.Machine
end

section
/-! The family of spec/43_transform.md, whole steps: who writes the engine's registers and the result words (R165, R179,
R185), the bound of R177 after every step, and that no step overflows. -/

namespace Sys2Proof.Machine

open Sys2Proof

/-! ### What a host access leaves alone -/

/-- A host access writes no register of the engine and, of the debounce unit's, only takes the event. -/
theorem sameEngine_hostStep {c : Config} {b b' : Block} (hs : HostStep c b b') :
    SameEngine b b' ∧ b'.inputs = b.inputs ∧ b'.evqEntry = b.evqEntry ∧ (b'.evqValid = true → b.evqValid = true) := by
  cases hs with
  | evqPop => exact ⟨⟨rfl, rfl, rfl, rfl, rfl, rfl, rfl, rfl, rfl, rfl⟩, rfl, rfl, nofun⟩
  | _ => exact ⟨⟨rfl, rfl, rfl, rfl, rfl, rfl, rfl, rfl, rfl, rfl⟩, rfl, rfl, id⟩

/-- Settles O24, by the kinds of host access. -/
theorem hostNeverTouchesEngine : Obligations.HostNeverTouchesEngine := fun _ _ _ h =>
  sameEngine_hostStep (hostStep_of_exec h)

/-! ### The writers of the result words -/

theorem rbAt_hostStep {c : Config} {b b' : Block} (hs : HostStep c b b') (bank : Bank) (k : ℕ) :
    rbAt b' bank k = rbAt b bank k := by
  obtain ⟨⟨_, _, _, _, _, _, hrb, _⟩, _⟩ := sameEngine_hostStep hs
  rw [rbAt, hrb, rbAt]

/-- Of the agents' steps only MAG and RESET write a result word. -/
theorem rbAt_agentStep {c : Config} {b b' : Block} {a : Action} {evs : List Event} (hs : AgentStep c b a b' evs)
    {bank : Bank} {k : ℕ} (hne : rbAt b' bank k ≠ rbAt b bank k) :
    a = .reset ∨ (a = .engine ∧ b.engPhase = .mag ∧ bank = b.front.other ∧ k = b.engI ∧ b'.front = b.front) := by
  have htick (x : Sample) : channel (if b.acqRun then acquire c x b else b) = channel b :=
    channel_ite (channel_acquire c x b) rfl
  have hsame (he : channel b' = channel b) : False := hne (rbAt_of_channel he bank k)
  cases hs with
  | reset => exact .inl rfl
  | engMag hp =>
    rw [rbAt_engMag] at hne
    by_cases hk : bank = b.front.other ∧ k = b.engI
    · refine .inr ⟨rfl, hp, hk.1, hk.2, ?_⟩
      rw [engMag_eq]
      rfl
    · exact absurd (if_neg hk) hne
  | engFft =>
    refine absurd ?_ hne
    rw [fftAdvance_eq]
    rfl
  | tick x => exact (hsame (htick x)).elim
  | streamTick x => exact (hsame (htick x)).elim
  | engStart => exact (hsame (channel_ite rfl rfl)).elim
  | engLoad => exact (hsame (channel_ite rfl rfl)).elim
  | rcCheck => exact (hsame (channel_ite rfl rfl)).elim
  | rcEmit => exact (hsame (channel_rcEmit b)).elim
  | db pins te => exact (hsame (channel_dbInputs ..)).elim
  | _ => exact absurd rfl hne

/-- Settles O54, by the kinds of step. -/
theorem resultWordsChangeOnlyInMag : Obligations.ResultWordsChangeOnlyInMag := by
  intro s t bank k h hne
  obtain ⟨_, _, evs, _, ⟨he, _⟩ | ⟨hhost, _⟩ | hagent⟩ := step_effect h
  · exact absurd (congrArg (rbAt · bank k) he) hne
  · exact absurd (rbAt_hostStep hhost bank k) hne
  · exact rbAt_agentStep hagent hne

/-! ### The bound, of the block -/

/-- The last stage that has combined element `k` when butterfly `q` of stage `s` is next. -/
def combinedStage (s q k : ℕ) : ℕ := if butterflyOf s k < q then s else s - 1

/-- `TransformBounded` as a predicate of the block. -/
structure BlockBounded (c : Config) (b : Block) : Prop where
  load : b.engPhase = .load → ∀ i, i < b.engI → (xAt b (bitrev c.lgN i)).within (stageBound c 0)
  fft : b.engPhase = .fft → ∀ k, k < winLen c →
    (xAt b k).within (stageBound c (combinedStage b.engStage b.engQ k))
  mag : b.engPhase = .mag → ∀ k, k < winLen c → (xAt b k).within (stageBound c c.lgN)

theorem transformBounded_iff {s : State} : TransformBounded s ↔ BlockBounded s.cfg s.blk :=
  ⟨fun ⟨hload, hfft, hmag⟩ => ⟨hload, hfft, hmag⟩, fun ⟨hload, hfft, hmag⟩ => ⟨hload, hfft, hmag⟩⟩

/-- The registers the bound speaks of (R33 to R35), in a block that holds nothing else. -/
def engineWork (b : Block) : Block :=
  { Block.atReset with engPhase := b.engPhase, engI := b.engI, engStage := b.engStage, engQ := b.engQ, x := b.x }

section
variable {c : Config} {b : Block}

theorem blockBounded_engineWork : BlockBounded c (engineWork b) ↔ BlockBounded c b :=
  ⟨fun ⟨hload, hfft, hmag⟩ => ⟨hload, hfft, hmag⟩, fun ⟨hload, hfft, hmag⟩ => ⟨hload, hfft, hmag⟩⟩

theorem BlockBounded.of_engineWork_eq {b' : Block} (h : BlockBounded c b) (he : engineWork b' = engineWork b) :
    BlockBounded c b' :=
  blockBounded_engineWork.1 (he ▸ blockBounded_engineWork.2 h)

theorem blockBounded_of_idle (hp : b.engPhase = .idle) : BlockBounded c b where
  load h := by cases hp.symm.trans h
  fft h := by cases hp.symm.trans h
  mag h := by cases hp.symm.trans h

theorem blockBounded_of_load (hp : b.engPhase = .load)
    (h : ∀ i, i < b.engI → (xAt b (bitrev c.lgN i)).within (stageBound c 0)) : BlockBounded c b where
  load _ := h
  fft h := by cases hp.symm.trans h
  mag h := by cases hp.symm.trans h

theorem blockBounded_of_fft (hp : b.engPhase = .fft)
    (h : ∀ k, k < winLen c → (xAt b k).within (stageBound c (combinedStage b.engStage b.engQ k))) : BlockBounded c b where
  load h := by cases hp.symm.trans h
  fft _ := h
  mag h := by cases hp.symm.trans h

theorem blockBounded_of_mag (hp : b.engPhase = .mag)
    (h : ∀ k, k < winLen c → (xAt b k).within (stageBound c c.lgN)) : BlockBounded c b where
  load h := by cases hp.symm.trans h
  fft h := by cases hp.symm.trans h
  mag _ := h

theorem blockBounded_of_pub (hp : b.engPhase = .pub) : BlockBounded c b where
  load h := by cases hp.symm.trans h
  fft h := by cases hp.symm.trans h
  mag h := by cases hp.symm.trans h

/-! ### The agents beside the engine -/

theorem engineWork_ite {p : Prop} [Decidable p] {u v : Block} (hu : engineWork u = engineWork b)
    (hv : engineWork v = engineWork b) : engineWork (if p then u else v) = engineWork b :=
  iteInduction (motive := fun b' => engineWork b' = engineWork b) (fun _ => hu) fun _ => hv

theorem engineWork_hostStep {b' : Block} (hs : HostStep c b b') : engineWork b' = engineWork b := by
  obtain ⟨⟨hp, _, hi, hs, hq, hx, _⟩, _⟩ := sameEngine_hostStep hs
  simp only [engineWork, hp, hi, hs, hq, hx]

/-- A sample leaves the engine's registers, but for the load it may abort. -/
theorem blockBounded_acquire (h : BlockBounded c b) (x : Sample) : BlockBounded c (acquire c x b) := by
  rw [acquire_eq_add]
  by_cases ha : AbortsLoad c b
  · exact blockBounded_of_idle (if_pos ha)
  · exact h.of_engineWork_eq (by simp only [engineWork, if_neg ha])

theorem engineWork_rcEmit (b : Block) : engineWork (rcEmit b) = engineWork b := by
  refine engineWork_ite (engineWork_ite rfl rfl) ?_
  rw [rcAbort_eq]
  exact engineWork_ite (p := b.armed = true) rfl rfl

theorem engineWork_pushEvent (b : Block) (i : ℕ) : engineWork (pushEvent b i) = engineWork b := engineWork_ite rfl rfl

theorem engineWork_dbInputs (pins : BitVec 16) (te : Bool) (n : ℕ) :
    engineWork (dbInputs c pins te b n) = engineWork b := by
  induction n with
  | zero => rfl
  | succ n ih =>
    rw [dbInputs]
    rcases dbInputStep_cases c pins te (dbInputs c pins te b n) n with ⟨_, e⟩ | ⟨_, e⟩ <;> rw [e]
    · exact ih
    · exact (engineWork_pushEvent _ n).trans ih

/-! ### The engine's own steps -/

theorem engStart_phase (b : Block) :
    ((engStart b).engPhase = .load ∧ (engStart b).engI = 0) ∨ (engStart b).engPhase = b.engPhase := by
  unfold engStart
  split_ifs
  · exact .inl ⟨rfl, rfl⟩
  · exact .inr rfl

theorem blockBounded_engStart (hp : b.engPhase = .idle) : BlockBounded c (engStart b) := by
  rcases engStart_phase b with ⟨hload, hi⟩ | hidle
  · exact blockBounded_of_load hload fun i hlt => absurd (hi ▸ hlt) (Nat.not_lt_zero i)
  · exact blockBounded_of_idle (hidle.trans hp)

/-- The samples loaded so far, with the one of this step, are within the bound of stage 0. -/
theorem xAt_engLoad_within (hi : BlockInv c b) (h : BlockBounded c b) (hp : b.engPhase = .load) {i : ℕ}
    (hle : i ≤ b.engI) : (xAt (engLoad c b) (bitrev c.lgN i)).within (stageBound c 0) := by
  rw [xAt_engLoad]
  split
  · exact loadWord_within hi.cfg_valid (hi.samples_fit _)
  next hne => exact h.load hp i (lt_of_le_of_ne hle fun he => hne (he ▸ rfl))

theorem blockBounded_engLoad (hi : BlockInv c b) (h : BlockBounded c b) (hp : b.engPhase = .load) :
    BlockBounded c (engLoad c b) := by
  have hx {i : ℕ} (hle : i ≤ b.engI) := xAt_engLoad_within hi h hp hle
  by_cases hlast : b.engI + 1 = winLen c
  · have hphase : (engLoad c b).engPhase = .fft := (congrArg Block.engPhase (engLoad_eq c b)).trans (if_pos hlast)
    have hstage : (engLoad c b).engStage = 1 := (congrArg Block.engStage (engLoad_eq c b)).trans (if_pos hlast)
    have hq : (engLoad c b).engQ = 0 := (congrArg Block.engQ (engLoad_eq c b)).trans (if_pos hlast)
    refine blockBounded_of_fft hphase fun k hk => ?_
    have hword := hx (Nat.le_of_lt_succ ((bitrev_lt c.lgN k).trans_eq hlast.symm))
    rw [bitrev_bitrev hk] at hword
    rw [hstage, hq]
    exact hword
  · have hphase : (engLoad c b).engPhase = .load := ((congrArg Block.engPhase (engLoad_eq c b)).trans (if_neg hlast)).trans hp
    have hcount : (engLoad c b).engI = b.engI + 1 := congrArg Block.engI (engLoad_eq c b)
    exact blockBounded_of_load hphase fun i hlt => hx (Nat.le_of_lt_succ (hlt.trans_eq hcount))

/-- The words of a butterfly fit SInt_32 and are within the bound of its stage, because neither of its elements has been
combined in that stage before. -/
theorem butterflyWords_within (hi : BlockInv c b) (h : BlockBounded c b) (hp : b.engPhase = .fft) {top bot : ℕ}
    {w : CInt} (hb : butterflyAt c b.engStage b.engQ = (top, bot, w)) {y : CInt × CInt}
    (hy : y = butterfly c.twBits w (xAt b top).toInts (xAt b bot).toInts) :
    (y.1.fits = true ∧ y.1.toCplx.within (stageBound c b.engStage)) ∧
      (y.2.fits = true ∧ y.2.toCplx.within (stageBound c b.engStage)) := by
  obtain ⟨_, hstage, hlast, hq⟩ := hi.engine_indices
  obtain ⟨htop, hbot⟩ := butterflyAt_lt hstage hlast hq hb
  have hu := h.fft hp top htop
  have hx := h.fft hp bot hbot
  obtain ⟨e, he⟩ : ∃ e, b.engStage = e + 1 := Nat.exists_eq_add_of_le' hstage
  change b.engStage ≤ c.lgN at hlast
  rw [he] at hb hu hx hlast ⊢
  rw [butterflyAt_succ] at hb
  obtain ⟨rfl, rfl, rfl⟩ := hb
  obtain ⟨htopOf, hbotOf⟩ := butterflyOf_top_bot e b.engQ
  rw [combinedStage, htopOf, if_neg (lt_irrefl _)] at hu
  rw [combinedStage, hbotOf, if_neg (lt_irrefl _)] at hx
  exact butterfly_within hi.cfg_valid hlast hu hx hy

/-- After butterfly `q` the elements are bounded as if butterfly `q + 1` were next. -/
theorem xAt_butterflyWords_within (hi : BlockInv c b) (h : BlockBounded c b) (hp : b.engPhase = .fft) {top bot : ℕ}
    {w : CInt} (hb : butterflyAt c b.engStage b.engQ = (top, bot, w)) {y : CInt × CInt}
    (hy : y = butterfly c.twBits w (xAt b top).toInts (xAt b bot).toInts) {k : ℕ} (hk : k < winLen c) :
    (xAt (butterflyWords b top bot y) k).within (stageBound c (combinedStage b.engStage (b.engQ + 1) k)) := by
  obtain ⟨⟨_, hfirst⟩, _, hsecond⟩ := butterflyWords_within hi h hp hb hy
  obtain ⟨_, hstage, _⟩ := hi.engine_indices
  obtain ⟨e, he⟩ : ∃ e, b.engStage = e + 1 := Nat.exists_eq_add_of_le' hstage
  have helem := h.fft hp k hk
  rw [he] at hb hfirst hsecond helem ⊢
  rw [butterflyAt_succ] at hb
  obtain ⟨rfl, rfl, rfl⟩ := hb
  obtain ⟨htopOf, hbotOf⟩ := butterflyOf_top_bot e b.engQ
  rw [xAt_butterflyWords]
  split
  next hkb => rwa [combinedStage, hkb, hbotOf, if_pos (Nat.lt_succ_self _)]
  next hkb =>
  split
  next hkt => rwa [combinedStage, hkt, htopOf, if_pos (Nat.lt_succ_self _)]
  next hkt =>
  have hne : butterflyOf (e + 1) k ≠ b.engQ := fun hq => (eq_top_or_bot_of_butterflyOf hq).elim hkt hkb
  have hiff : butterflyOf (e + 1) k < b.engQ + 1 ↔ butterflyOf (e + 1) k < b.engQ := by omega
  rwa [combinedStage, if_congr hiff rfl rfl]

/-- The advance keeps the bound: the end of a stage finds every element combined in it. -/
theorem blockBounded_fftAdvance (hi : BlockInv c b) (hp : b.engPhase = .fft)
    (h : ∀ k, k < winLen c → (xAt b k).within (stageBound c (combinedStage b.engStage (b.engQ + 1) k))) :
    BlockBounded c (fftAdvance c b) := by
  obtain ⟨_, hstage, hle, hq⟩ := hi.engine_indices
  change 1 ≤ b.engStage at hstage
  change b.engStage ≤ c.lgN at hle
  change b.engQ < binCount c at hq
  by_cases hin : b.engQ < binCount c - 1
  · refine blockBounded_of_fft (by rw [fftAdvance_eq]; simpa [hin] using hp) fun k hk => ?_
    rw [xAt_fftAdvance, fftAdvance_eq]
    simp only [if_pos hin]
    exact h k hk
  have hdone (k : ℕ) (hk : k < winLen c) : (xAt b k).within (stageBound c b.engStage) := by
    have hlt := butterflyOf_lt hstage hle hk
    have hall := h k hk
    rwa [combinedStage, if_pos (by omega)] at hall
  by_cases hf : b.engStage < c.lgN
  · refine blockBounded_of_fft (by rw [fftAdvance_eq]; simpa [hf] using hp) fun k hk => ?_
    rw [xAt_fftAdvance, fftAdvance_eq]
    simp only [if_neg hin, if_pos hf]
    exact hdone k hk
  · refine blockBounded_of_mag (by rw [fftAdvance_eq]; simp [hin, hf]) fun k hk => ?_
    rw [xAt_fftAdvance, ← le_antisymm hle (not_lt.1 hf)]
    exact hdone k hk

theorem blockBounded_engMag (h : BlockBounded c b) (hp : b.engPhase = .mag) : BlockBounded c (engMag c b) := by
  rw [engMag_eq]
  by_cases hlast : b.engI + 1 = binCount c
  · exact blockBounded_of_pub (if_pos hlast)
  · exact blockBounded_of_mag ((if_neg hlast).trans hp) (h.mag hp)

theorem blockBounded_agentStep {a : Action} {b' : Block} {evs : List Event} (hi : BlockInv c b) (h : BlockBounded c b)
    (hs : AgentStep c b a b' evs) : BlockBounded c b' := by
  have hacq (x : Sample) := iteInduction (c := b.acqRun = true) (motive := BlockBounded c)
    (fun _ => blockBounded_acquire h x) fun _ => h
  cases hs with
  | tick x => exact hacq x
  | streamTick x => exact (hacq x).of_engineWork_eq rfl
  | engStart hp => exact blockBounded_engStart hp
  | engLoad hp => exact blockBounded_engLoad hi h hp
  | engFft hp hb hy =>
    obtain ⟨_, hstage, hlast, hq⟩ := hi.engine_indices
    obtain ⟨htop, hbot⟩ := butterflyAt_lt hstage hlast hq hb
    exact blockBounded_fftAdvance (blockInv_setX (blockInv_setX hi htop _) hbot _) hp
      fun k hk => xAt_butterflyWords_within hi h hp hb hy hk
  | engMag hp => exact blockBounded_engMag h hp
  | engPub => exact blockBounded_of_idle rfl
  | rcWake => exact h.of_engineWork_eq rfl
  | rcCheck => exact h.of_engineWork_eq (engineWork_ite rfl rfl)
  | rcEmit => exact h.of_engineWork_eq (engineWork_rcEmit b)
  | rport => exact h.of_engineWork_eq rfl
  | db pins te => exact h.of_engineWork_eq (engineWork_dbInputs pins te c.nIn)
  | reset => exact blockBounded_of_idle rfl

/-! ### No overflow -/

/-- The butterfly that is next never overflows (R177). -/
theorem engFft_of_bounded (hi : BlockInv c b) (h : BlockBounded c b) (hp : b.engPhase = .fft) :
    ∃ b', engFft c b = .moved b' [] := by
  have hbfly : butterflyAt c b.engStage b.engQ = _ := rfl
  obtain ⟨⟨hfit, _⟩, hfit', _⟩ := butterflyWords_within hi h hp hbfly rfl
  exact ⟨_, engFft_of_fits c hbfly rfl ⟨hfit, hfit'⟩⟩

/-- A magnitude is at most the modulus it is the floor of. -/
theorem mag_le_of_within {z : Cplx} {m : ℚ} (hm : 0 ≤ m) (h : z.within m) : (mag z.toInts : ℚ) ≤ m := by
  have hroot := (isqrtIsFloorOfRoot (z.re.toInt * z.re.toInt + z.im.toInt * z.im.toInt).toNat).1
  have hnonneg : 0 ≤ z.re.toInt * z.re.toInt + z.im.toInt * z.im.toInt :=
    add_nonneg (mul_self_nonneg _) (mul_self_nonneg _)
  have hint : ((mag z.toInts : ℕ) : ℤ) * (mag z.toInts : ℕ) ≤ z.re.toInt * z.re.toInt + z.im.toInt * z.im.toInt := by
    rw [← Int.toNat_of_nonneg hnonneg]
    exact_mod_cast hroot
  refine le_of_sq_le_sq ?_ hm
  refine le_trans ?_ h
  rw [sq, sq, sq]
  exact_mod_cast hint

/-- A scaled magnitude fits RB's 32 bits (R169, R177). -/
theorem scale_mag_lt {z : Cplx} (hv : configValid c = true) (h : z.within (stageBound c c.lgN)) :
    scale c (mag z.toInts) < 2 ^ 31 := by
  obtain ⟨_, _, htw, hsum, hres⟩ := ranges_of_transform hv
  have hmag : mag z.toInts < 2 ^ (c.lgN + c.sampleBits + c.guardBits + 1) := by
    exact_mod_cast (mag_le_of_within (stageBound_nonneg c _) h).trans_lt (stageBound_last_lt htw)
  refine Nat.div_lt_of_lt_mul ?_
  calc mag z.toInts * 2 ^ (c.resBits + 1)
    _ < 2 ^ (c.lgN + c.sampleBits + c.guardBits + 1) * 2 ^ (c.resBits + 1) :=
        Nat.mul_lt_mul_of_pos_right hmag (Nat.two_pow_pos _)
    _ = 2 ^ (c.lgN + c.sampleBits + c.guardBits) * 2 ^ (c.resBits + 2) := by
        rw [← pow_add, ← pow_add]
        congr 1
        omega
    _ ≤ 2 ^ (c.lgN + c.sampleBits + c.guardBits) * 2 ^ 31 :=
        Nat.mul_le_mul_left _ (Nat.pow_le_pow_right two_pos (by omega))

end

/-- Settles O47: each kind of step keeps the bound of the block. -/
theorem stepKeepsTransformBounded : Obligations.StepKeepsTransformBounded := by
  intro s t hi h ht
  obtain ⟨hinv, _⟩ := inv_iff.1 hi
  obtain ⟨_, hcfg, evs, _, hkind⟩ := step_effect ht
  rw [transformBounded_iff] at h ⊢
  rw [hcfg]
  rcases hkind with ⟨he, _⟩ | ⟨hhost, _⟩ | hagent
  · rwa [he]
  · exact h.of_engineWork_eq (engineWork_hostStep hhost)
  · exact blockBounded_agentStep hinv h hagent

/-- Settles O48: the one step that could overflow is a butterfly, and its words fit. -/
theorem validConfigurationNeverOverflows : Obligations.ValidConfigurationNeverOverflows := by
  intro s hi h
  obtain ⟨hinv, _⟩ := inv_iff.1 hi
  have hb := transformBounded_iff.1 h
  refine ⟨fun f hf => ?_, fun hp k hk => scale_mag_lt hi.cfg_valid (hb.mag hp k (hk.trans_le (Nat.div_le_self ..)))⟩
  obtain ⟨_, _, hfault⟩ := stepStopsOnlyAsSpecified s
  obtain ⟨_, ha, hp⟩ := hfault f hf
  obtain ⟨b', hmove⟩ := engFft_of_bounded hinv hb hp
  rw [step_of_valid hi.cfg_valid, ha, runAction_of_agent (by simp), State.popAction_cfg, State.popAction_blk,
    show agentMove s.cfg .engine s.blk = .moved b' [] from (engineMove_of_fft _ hp).trans hmove] at hf
  cases hf

end Sys2Proof.Machine
end

section
/-! The family of spec/43_transform.md, the whole job: the transform of a zero window is zero (R184), and what a job publishes
is the transform of its window (R160, R182). -/

namespace Sys2Proof.Machine

open Sys2Proof

/-! ### The zero window -/

/-- Half a unit alone rounds to zero (R184). -/
theorem cmul_zero {t : ℕ} (ht : 1 ≤ t) (w : CInt) : cmul t w ⟨0, 0⟩ = ⟨0, 0⟩ := by
  have hhalf : ((2 ^ (t - 1) : ℕ) : ℤ) / (2 ^ t : ℕ) = 0 :=
    Int.ediv_eq_zero_of_lt (Int.natCast_nonneg _)
      (by exact_mod_cast Nat.pow_lt_pow_right one_lt_two (Nat.sub_lt ht one_pos))
  simp only [cmul, mul_zero, sub_zero, add_zero, zero_add, hhalf]

theorem butterfly_zero {t : ℕ} (ht : 1 ≤ t) (w : CInt) : butterfly t w ⟨0, 0⟩ ⟨0, 0⟩ = (⟨0, 0⟩, ⟨0, 0⟩) := by
  simp only [butterfly, cmul_zero ht, add_zero, sub_zero]

/-- Zero elements stay zero through the stages. -/
theorem fftX_zero {c : Config} (ht : 1 ≤ c.twBits) {x : ℕ → Cplx} (hx : ∀ k, x k = Cplx.zero) (n k : ℕ) :
    fftX c x n k = Cplx.zero := by
  induction n generalizing k with
  | zero => exact hx k
  | succ n ih =>
    have hzero : Cplx.zero.toInts = ⟨0, 0⟩ := rfl
    simp only [fftX, ih, hzero, butterfly_zero ht]
    split_ifs <;> rfl

theorem magWord_zero (c : Config) : magWord c Cplx.zero = 0 := by
  have hmag : mag Cplx.zero.toInts = 0 := rfl
  rw [magWord, hmag, scale, zero_mul, Nat.zero_div]
  rfl

/-- Settles O58: every word of the job is zero from the load on. -/
theorem zeroWindowGivesZeroResult : Obligations.ZeroWindowGivesZeroResult := by
  intro c k hv
  obtain ⟨_, ⟨ht, _⟩, _⟩ := ranges_of_transform hv
  have hload (k : ℕ) : loadedX c (fun _ => 0) k = Cplx.zero := by
    simp [loadedX, loadWord, Cplx.zero]
  rw [transform, fftX_zero (by omega) hload, magWord_zero]

/-! ### Runs of the engine -/

/-- A machine of configuration `c` that keeps the invariants, with `sched` to come and a block of which `Q` holds. -/
structure Ready (c : Config) (sched : List Action) (Q : Block → Prop) (s : State) : Prop where
  cfg : s.cfg = c
  inv : Inv s
  bounded : TransformBounded s
  sched : s.sched = sched
  blk : Q s.blk

/-- `n` ENGINE steps with none of another agent between them take every block of `P` to one of `Q`. -/
def EngineTakes (c : Config) (n : ℕ) (P Q : Block → Prop) : Prop :=
  ∀ (s : State) (rest : List Action), Ready c (List.replicate n .engine ++ rest) P s →
    ∃ t, Sys2Proof.core.run n s = .next t ∧ Ready c rest Q t

/-- A run goes on from the state that its first steps answer. -/
theorem run_add_of_run {m : ℕ} {s t : State} (h : Sys2Proof.core.run m s = .next t) (n : ℕ) :
    Sys2Proof.core.run (m + n) s = Sys2Proof.core.run n t := by
  induction m generalizing s with
  | zero => cases h; rw [Nat.zero_add]
  | succ m ih =>
    rw [Nat.succ_add]
    cases hstep : step s with
    | next u =>
      rw [run_succ_of_step hstep] at h ⊢
      exact ih h
    | fault f =>
      have hcore : Sys2Proof.core.step s = .fault f := hstep
      simp only [Host.Core.run, hcore] at h
      cases h
    | refused r =>
      have hcore : Sys2Proof.core.step s = .refused r := hstep
      simp only [Host.Core.run, hcore] at h
      cases h

section
variable {c : Config} {P Q R : Block → Prop}

theorem EngineTakes.mono {n : ℕ} (h : EngineTakes c n P Q) (hQR : ∀ b, Q b → R b) : EngineTakes c n P R := by
  intro s rest hs
  obtain ⟨t, hrun, ht⟩ := h s rest hs
  exact ⟨t, hrun, { ht with blk := hQR _ ht.blk }⟩

theorem EngineTakes.trans {m n : ℕ} (h : EngineTakes c m P Q) (h' : EngineTakes c n Q R) :
    EngineTakes c (m + n) P R := by
  intro s rest hs
  rw [List.replicate_add, List.append_assoc] at hs
  obtain ⟨t, hrun, ht⟩ := h s _ hs
  obtain ⟨u, hrun', hu⟩ := h' t rest ht
  exact ⟨u, (run_add_of_run hrun n).trans hrun', hu⟩

/-- One enabled ENGINE step; the invariants hold before it and are kept by it (R59, R177). -/
theorem EngineTakes.of_move
    (h : ∀ b, BlockInv c b → BlockBounded c b → P b → ∃ b', engineMove c b = .moved b' [] ∧ Q b') :
    EngineTakes c 1 P Q := by
  rintro s rest ⟨rfl, hinv, hbound, hsched, hP⟩
  obtain ⟨b', hmove, hQ⟩ := h s.blk (inv_iff.1 hinv).1 (transformBounded_iff.1 hbound) hP
  obtain ⟨t, hstep, rfl, hcfg, hsched'⟩ := step_of_moves hsched
    (moves_of_agentMove (s := { s with sched := rest }) (a := .engine) hinv.cfg_valid (by simp) hmove)
  refine ⟨t, run_succ_of_step hstep 0, hcfg, stepKeepsInvariant s t hinv hstep,
    stepKeepsTransformBounded s t hinv hbound hstep, hsched', hQ⟩

/-- A phase: as many steps as it has, each taking its invariant to the next count. -/
theorem EngineTakes.iterate {P : ℕ → Block → Prop} {n : ℕ} (h : ∀ m, m < n → EngineTakes c 1 (P m) (P (m + 1))) :
    EngineTakes c n (P 0) (P n) := by
  induction n with
  | zero => exact fun s rest hs => ⟨s, rfl, hs⟩
  | succ n ih => exact (ih fun m hm => h m (hm.trans n.lt_succ_self)).trans (h n n.lt_succ_self)

end

/-! ### The phases of a job -/

/-- What a job leaves until it publishes: the pending bit, the version, and the front bank with its words (R179). -/
structure Published where
  pending : Bool
  version : Word
  front : Bank
  words : ℕ → Word

def published (b : Block) : Published :=
  { pending := b.pending, version := b.version, front := b.front, words := rbAt b b.front }

section
variable (c : Config) (b₀ : Block)

/-- The window of the bank that `b₀` has completed. -/
def completedWindow (i : ℕ) : Sample := sbAt b₀ (b₀.cbank.toNat * winLen c + i)

/-- The butterflies of a job (R160). -/
abbrev butterflyCount : ℕ := binCount c * c.lgN

/-- `n` samples of the window are loaded (R172, R173). -/
structure Loaded (n : ℕ) (b : Block) : Prop where
  kept : published b = published { b₀ with pending := false }
  phase : b.engPhase = if n = winLen c then .fft else .load
  start : n = winLen c → b.engStage = 1 ∧ b.engQ = 0
  count : b.engI = n
  ldBank : b.ldBank = b₀.cbank
  sb : b.sb = b₀.sb
  words : ∀ i, i < n → xAt b (bitrev c.lgN i) = loadWord c (completedWindow c b₀ i)

/-- `n` butterflies of the job have run (R174, R175). -/
structure Combined (n : ℕ) (b : Block) : Prop where
  kept : published b = published { b₀ with pending := false }
  phase : b.engPhase = if n = butterflyCount c then .mag else .fft
  next : n < butterflyCount c → b.engStage = n / binCount c + 1 ∧ b.engQ = n % binCount c
  start : n = butterflyCount c → b.engI = 0
  words : ∀ k, k < winLen c → xAt b k = fftX c (loadedX c (completedWindow c b₀)) n k

/-- `n` bins of the result are written (R178). -/
structure Measured (n : ℕ) (b : Block) : Prop where
  kept : published b = published { b₀ with pending := false }
  phase : b.engPhase = if n = binCount c then .pub else .mag
  count : b.engI = n
  words : ∀ k, k < winLen c → xAt b k = fftX c (loadedX c (completedWindow c b₀)) (butterflyCount c) k
  bins : ∀ k, k < n → rbAt b b₀.front.other k = transform c (completedWindow c b₀) k

/-- The job is over (R183). -/
structure JobDone (b : Block) : Prop where
  phase : b.engPhase = .idle
  pending : b.pending = false
  version : b.version = b₀.version + 1
  front : b.front = b₀.front.other
  bins : ∀ k, k < binCount c → rbAt b b.front k = transform c (completedWindow c b₀) k
  old : ∀ k, rbAt b b₀.front k = rbAt b₀ b₀.front k

end

section
variable {c : Config} {b₀ b : Block}

theorem loaded_engStart (hok : b₀.bankOk.get b₀.cbank = true) : Loaded c b₀ 0 (engStart b₀) := by
  have hpos : (0 : ℕ) ≠ winLen c := (Nat.two_pow_pos _).ne
  rw [engStart, if_pos hok]
  exact {
    kept := rfl
    phase := (if_neg hpos).symm
    start := fun h => absurd h hpos
    count := rfl
    ldBank := rfl
    sb := rfl
    words := fun i hi => absurd hi (Nat.not_lt_zero i) }

theorem loaded_engLoad {n : ℕ} (hn : n < winLen c) (h : Loaded c b₀ n b) : Loaded c b₀ (n + 1) (engLoad c b) := by
  have hsample : sbAt b (loadIndex c b b.engI) = completedWindow c b₀ n := by
    rw [sbAt, loadIndex, h.sb, h.ldBank, h.count, completedWindow, sbAt]
  have hphase : b.engPhase = .load := h.phase.trans (if_neg hn.ne)
  exact {
    kept := by
      rw [← h.kept, engLoad_eq]
      rfl
    phase := by rw [engLoad_eq, h.count, hphase]
    start := fun hlast => by
      rw [engLoad_eq, h.count]
      exact ⟨if_pos hlast, if_pos hlast⟩
    count := by rw [engLoad_eq, h.count]
    ldBank := by
      rw [← h.ldBank, engLoad_eq]
      rfl
    sb := by
      rw [← h.sb, engLoad_eq]
      rfl
    words := fun i hi => by
      rw [xAt_engLoad, hsample, h.count]
      split
      next heq =>
        have hin : i = n := by
          rw [← bitrev_bitrev (l := c.lgN) (show i < 2 ^ c.lgN from lt_of_le_of_lt (Nat.le_of_lt_succ hi) hn), heq,
            bitrev_bitrev hn]
        rw [hin]
      next hne =>
        exact h.words i (lt_of_le_of_ne (Nat.le_of_lt_succ hi) fun he => hne (by rw [he])) }

/-- The loaded window is the input of the transform (R173). -/
theorem combined_of_loaded (hv : configValid c = true) (h : Loaded c b₀ (winLen c) b) : Combined c b₀ 0 b := by
  obtain ⟨⟨hl, _⟩, _⟩ := ranges_of_transform hv
  have hbins := two_le_binCount hl
  have hpos : 0 < butterflyCount c := Nat.mul_pos (by omega) (by omega)
  obtain ⟨hstage, hq⟩ := h.start rfl
  exact {
    kept := h.kept
    phase := by rw [h.phase, if_pos rfl, if_neg hpos.ne]
    next := fun _ => ⟨by rw [hstage, Nat.zero_div], by rw [hq, Nat.zero_mod]⟩
    start := fun h0 => absurd h0 hpos.ne
    words := fun k hk => by
      have hword := h.words (bitrev c.lgN k) (bitrev_lt c.lgN k)
      rwa [bitrev_bitrev hk] at hword }

/-- The next butterfly is of the same stage, or the first of the next stage (R175). -/
theorem next_butterfly {n d l : ℕ} (hd : 1 ≤ d) (hn : n < d * l) :
    (n % d < d - 1 → (n + 1) / d = n / d ∧ (n + 1) % d = n % d + 1 ∧ n + 1 < d * l) ∧
    (¬n % d < d - 1 → (n + 1) / d = n / d + 1 ∧ (n + 1) % d = 0 ∧ (n + 1 < d * l ↔ n / d + 1 < l)) := by
  have hsplit := Nat.mod_add_div n d
  have hlt := Nat.mod_lt n hd
  refine ⟨fun hin => ?_, fun hend => ?_⟩
  · have hle : n / d + 1 ≤ l := Nat.div_lt_of_lt_mul hn
    obtain ⟨hdiv, hmod⟩ := (Nat.div_mod_unique hd (a := n + 1) (d := n / d) (c := n % d + 1)).2 ⟨by omega, by omega⟩
    have := Nat.mul_le_mul_left d hle
    rw [mul_add_one] at this
    exact ⟨hdiv, hmod, by omega⟩
  · have hnext : n + 1 = d * (n / d + 1) := by rw [mul_add_one]; omega
    rw [hnext, Nat.mul_div_cancel_left _ hd, Nat.mul_mod_right]
    exact ⟨rfl, rfl, Nat.mul_lt_mul_left hd⟩

/-- After butterfly `n` of the job the engine's indices are those of butterfly `n + 1`, or MAG begins (R175, R176). -/
theorem indices_fftAdvance {n : ℕ} (hn : n < butterflyCount c) (hbins : 1 ≤ binCount c) (hp : b.engPhase = .fft)
    (hstage : b.engStage = n / binCount c + 1) (hq : b.engQ = n % binCount c) (top bot : ℕ) (y : CInt × CInt) {b' : Block}
    (hb' : b' = fftAdvance c (butterflyWords b top bot y)) :
    b'.engPhase = (if n + 1 = butterflyCount c then .mag else .fft) ∧
      (n + 1 < butterflyCount c → b'.engStage = (n + 1) / binCount c + 1 ∧ b'.engQ = (n + 1) % binCount c) ∧
      (n + 1 = butterflyCount c → b'.engI = 0) := by
  have heq := hb'.trans (fftAdvance_butterflyWords_eq c hp top bot y)
  obtain ⟨hin, hend⟩ := next_butterfly hbins hn
  have hgo : (b.engQ < binCount c - 1 ∨ b.engStage < c.lgN) ↔ n + 1 ≠ butterflyCount c := by
    rw [hq, hstage, (show n + 1 ≤ butterflyCount c from hn).lt_iff_ne.symm]
    by_cases hc : n % binCount c < binCount c - 1
    · exact iff_of_true (.inl hc) (hin hc).2.2
    · rw [or_iff_right hc, (hend hc).2.2]
  refine ⟨(congrArg Block.engPhase heq).trans ((if_congr hgo rfl rfl).trans (ite_not ..)), fun hlt => ?_,
    fun hlast => (congrArg Block.engI heq).trans (if_neg fun hg => hgo.1 hg hlast)⟩
  by_cases hc : n % binCount c < binCount c - 1
  · obtain ⟨hdiv, hmod, _⟩ := hin hc
    rw [hdiv, hmod, ← hstage, ← hq]
    rw [← hq] at hc
    exact ⟨(congrArg Block.engStage heq).trans (if_pos hc), (congrArg Block.engQ heq).trans (if_pos hc)⟩
  · obtain ⟨hdiv, hmod, hmore⟩ := hend hc
    have hf : b.engStage < c.lgN := hstage ▸ hmore.1 hlt
    rw [hdiv, hmod, ← hstage]
    rw [← hq] at hc
    exact ⟨(congrArg Block.engStage heq).trans ((if_neg hc).trans (if_pos hf)),
      (congrArg Block.engQ heq).trans ((if_neg hc).trans (if_pos hf))⟩

/-- A butterfly of the machine is one of `fftX`; by the bound it does not overflow. -/
theorem combined_engFft (hi : BlockInv c b) (hb : BlockBounded c b) {n : ℕ} (hn : n < butterflyCount c)
    (h : Combined c b₀ n b) : ∃ b', engineMove c b = .moved b' [] ∧ Combined c b₀ (n + 1) b' := by
  have hphase : b.engPhase = .fft := h.phase.trans (if_neg hn.ne)
  obtain ⟨hstage, hq⟩ := h.next hn
  obtain ⟨_, hone, hlast, hlt⟩ := hi.engine_indices
  obtain ⟨⟨top, bot, w⟩, hbfly⟩ : ∃ p, butterflyAt c b.engStage b.engQ = p := ⟨_, rfl⟩
  obtain ⟨htop, hbot⟩ := butterflyAt_lt hone hlast hlt hbfly
  obtain ⟨⟨hfit, _⟩, hfit', _⟩ := butterflyWords_within hi hb hphase hbfly rfl
  refine ⟨_, (engineMove_of_fft c hphase).trans (engFft_of_fits c hbfly rfl ⟨hfit, hfit'⟩), ?_⟩
  generalize hy : butterfly c.twBits w (xAt b top).toInts (xAt b bot).toInts = y
  obtain ⟨hphase', hnext, hstart⟩ := indices_fftAdvance hn (Nat.zero_lt_of_lt hlt) hphase hstage hq top bot y rfl
  exact {
    kept := by
      rw [← h.kept, fftAdvance_eq]
      rfl
    phase := hphase'
    next := hnext
    start := hstart
    words := fun k hk => by
      rw [hstage, hq] at hbfly
      rw [xAt_fftAdvance, xAt_butterflyWords]
      simp only [fftX, hbfly, ← h.words top htop, ← h.words bot hbot, ← h.words k hk, hy] }

theorem measured_of_combined (hv : configValid c = true) (h : Combined c b₀ (butterflyCount c) b) :
    Measured c b₀ 0 b := by
  obtain ⟨⟨hl, _⟩, _⟩ := ranges_of_transform hv
  have hbins := two_le_binCount hl
  exact {
    kept := h.kept
    phase := by rw [h.phase, if_pos rfl, if_neg (by omega)]
    count := h.start rfl
    words := h.words
    bins := fun k hk => absurd hk (Nat.not_lt_zero k) }

theorem front_of_kept (h : published b = published { b₀ with pending := false }) : b.front = b₀.front :=
  congrArg Published.front h

/-- A MAG step writes a word of the back bank alone (R179). -/
theorem published_engMag (c : Config) (b : Block) : published (engMag c b) = published b := by
  have hwords : rbAt (engMag c b) b.front = rbAt b b.front :=
    funext fun k => (rbAt_engMag c b b.front k).trans (if_neg fun he => Bank.ne_other _ he.1)
  have hfront : (engMag c b).front = b.front := by rw [engMag_eq]; rfl
  have hversion : (engMag c b).version = b.version := by rw [engMag_eq]; rfl
  have hpending : (engMag c b).pending = b.pending := by rw [engMag_eq]; rfl
  rw [published, hfront, hversion, hpending, hwords, published]

theorem measured_engMag {n : ℕ} (hn : n < binCount c) (h : Measured c b₀ n b) :
    Measured c b₀ (n + 1) (engMag c b) := by
  have hphase : b.engPhase = .mag := h.phase.trans (if_neg hn.ne)
  have hfront := front_of_kept h.kept
  exact {
    kept := (published_engMag c b).trans h.kept
    phase := by rw [engMag_eq, h.count, hphase]
    count := by rw [engMag_eq, h.count]
    words := fun k hk => by
      rw [← h.words k hk, engMag_eq]
      rfl
    bins := fun k hk => by
      rw [rbAt_engMag, hfront, h.count]
      by_cases hkn : k = n
      · rw [if_pos ⟨rfl, hkn⟩, hkn, h.words n (hn.trans_le (Nat.div_le_self ..)), transform]
      · rw [if_neg fun he => hkn he.2]
        exact h.bins k (by omega) }

theorem jobDone_engPub (h : Measured c b₀ (binCount c) b) : JobDone c b₀ (engPub b) := by
  have hfront := front_of_kept h.kept
  have hwords : rbAt b b.front = rbAt b₀ b₀.front := congrArg Published.words h.kept
  rw [hfront] at hwords
  exact {
    phase := rfl
    pending := congrArg Published.pending h.kept
    version := congrArg (·.version + 1) h.kept
    front := congrArg Bank.other hfront
    bins := fun k hk => (congrArg (fun bank : Bank => rbAt b bank.other k) hfront).trans (h.bins k hk)
    old := congrFun hwords }

/-- A job is its phases one after the other (R160). -/
theorem engineTakes_job (hv : configValid c = true) (hp : b₀.engPhase = .idle) (hw : b₀.pending = true)
    (hok : b₀.bankOk.get b₀.cbank = true) : EngineTakes c (jobSteps c) (· = b₀) (JobDone c b₀) := by
  have hstart : EngineTakes c 1 (· = b₀) (Loaded c b₀ 0) := .of_move fun b _ _ he =>
    ⟨engStart b₀, he.symm ▸ engineMove_of_pending c hp hw, loaded_engStart hok⟩
  have hload : EngineTakes c (winLen c) (Loaded c b₀ 0) (Loaded c b₀ (winLen c)) := .iterate fun n hn =>
    .of_move fun b _ _ h => ⟨_, engineMove_of_load c (h.phase.trans (if_neg hn.ne)), loaded_engLoad hn h⟩
  have hfft : EngineTakes c (butterflyCount c) (Combined c b₀ 0) (Combined c b₀ (butterflyCount c)) :=
    .iterate fun n hn => .of_move fun b hi hb h => combined_engFft hi hb hn h
  have hmag : EngineTakes c (binCount c) (Measured c b₀ 0) (Measured c b₀ (binCount c)) := .iterate fun n hn =>
    .of_move fun b _ _ h => ⟨_, engineMove_of_mag c (h.phase.trans (if_neg hn.ne)), measured_engMag hn h⟩
  have hpub : EngineTakes c 1 (Measured c b₀ (binCount c)) (JobDone c b₀) := .of_move fun b _ _ h =>
    ⟨_, engineMove_of_pub c (h.phase.trans (if_pos rfl)), jobDone_engPub h⟩
  exact ((((hstart.trans hload).mono fun b => combined_of_loaded hv).trans hfft).mono
    fun b => measured_of_combined hv).trans hmag |>.trans hpub

end

/-- Settles O33: the bound on the engine's words holds of an idle engine, so the phases of the job run to their end. -/
theorem jobPublishesTransform : Obligations.JobPublishesTransform := by
  intro rest s hi hp hw hok hs
  have hbound : TransformBounded s := transformBounded_iff.2 (blockBounded_of_idle hp)
  obtain ⟨t, hrun, ht⟩ := engineTakes_job hi.cfg_valid hp hw hok s rest ⟨rfl, hi, hbound, hs, rfl⟩
  obtain ⟨hphase, hpend, hver, hfront, hbins, hold⟩ := ht.blk
  exact ⟨t, hrun, ht.sched, hphase, hpend, hver, hfront, hbins, hold⟩

end Sys2Proof.Machine
end

section
/-! The family of spec/44_publication_report.md: the RC and RPORT agents (R198 to R202), who writes the version and the
slots (R192, R193, R195), and that a latch which is still valid names the words it latched (R194). -/

namespace Sys2Proof.Machine

open Sys2Proof

/-! ### The report's words and moves -/

/-- The four fields of a record's word, whatever its tag (spec/30_encoding.md R92). -/
theorem taggedWord_fields (tag : BitVec 2) (n : BinWord) (v : Word) :
    (tag ++ 0#16 ++ n ++ v).extractLsb' 62 2 = tag ∧ (tag ++ 0#16 ++ n ++ v).extractLsb' 46 16 = 0 ∧
      (tag ++ 0#16 ++ n ++ v).extractLsb' 32 14 = n ∧ (tag ++ 0#16 ++ n ++ v).extractLsb' 0 32 = v := by
  simp (disch := omega) only [BitVec.extractLsb'_append_eq_of_le, BitVec.extractLsb'_append_eq_of_add_le,
    BitVec.extractLsb'_eq_self, Nat.reduceSub, BitVec.ofNat_eq_ofNat, and_self]

theorem newFlag_eq_true_iff (b : Block) (n : ℕ) : newFlag b n = true ↔ b.version ≠ (slotAt b n).seenVer := by
  simp [newFlag]

section
variable {b : Block}

theorem rcMove_of_wake (hr : b.rcState = .waiting) (hn : newFlag b 0 = true) :
    rcMove b = .moved { consume b 0 with rcState := .check } [] := by
  simp [rcMove, hr, hn]

theorem rcMove_of_check (hr : b.rcState = .check) : rcMove b = .moved (rcCheck b) [] := by
  simp [rcMove, hr]

theorem rcMove_of_portEmpty (hr : b.rcState = .emit) (hp : b.rptOut = none) : rcMove b = .moved (rcEmit b) [] := by
  simp [rcMove, hr, hp]

theorem rportMove_of_portFull {r : Record} (hr : b.rptOut = some r) :
    rportMove b = .moved { b with rptOut := none } [.rpt r] := by
  simp [rportMove, hr]

/-! ### One record -/

theorem rcEmit_of_overwritten (h : validFlag b 0 = false) : rcEmit b = rcAbort b := by
  simp [rcEmit, h]

theorem rcEmit_of_more (h : validFlag b 0 = true) (hlt : b.rcIdx < b.rcCount.toNat) : rcEmit b = rcData b := by
  simp [rcEmit, h, hlt]

theorem rcEmit_of_done (h : validFlag b 0 = true) (hlt : ¬b.rcIdx < b.rcCount.toNat) : rcEmit b = rcEnd b := by
  simp [rcEmit, h, hlt]

end

/-- After an abort a request is armed: the one that was, or the aborted one (R200). -/
theorem rcAbort_eq_armed (b : Block) :
    rcAbort b =
      { b with
        rptOut := some (.abort (BitVec.ofNat 14 b.rcIdx) (slotAt b 0).latVer)
        reqStart := if b.armed then b.reqStart else b.rcStart
        reqCount := if b.armed then b.reqCount else b.rcCount
        armed := true
        irqStat := b.irqStat ||| irqRptAbort
        rcState := .waiting } := by
  rw [rcAbort_eq]
  by_cases ha : b.armed = true
  · simp only [ha, if_true]
  · simp only [if_neg ha]

/-- The halving of bin 0 drops the lowest bit (R200). -/
theorem emittedValue_eq (k : ℕ) (v : Word) :
    emittedValue k v = if k = 0 then BitVec.ofNat 32 (v.toNat / 2) else v := by
  have hhalf : v >>> 1 = BitVec.ofNat 32 (v.toNat / 2) := by bv_omega
  rw [emittedValue, hhalf]

theorem rcData_eq (b : Block) :
    rcData b =
      let k := b.rcStart.toNat + b.rcIdx
      let v := rbAt b (slotAt b 0).latBank k
      { b with
        rptOut := some (.data (BitVec.ofNat 14 k) (if k = 0 then BitVec.ofNat 32 (v.toNat / 2) else v))
        rcIdx := b.rcIdx + 1 } := by
  simp only [rcData, emittedValue_eq]

/-! ### The statements about the two agents -/

/-- Settles O34: a wake is a consumption by slot 0. -/
theorem rcWakesAndChecks : Obligations.RcWakesAndChecks := by
  intro s hv
  refine ⟨fun hr hn => ⟨{ consume s.blk 0 with rcState := .check }, ?_, ?_, fun n h0 => ?_, rfl⟩, fun hr => ?_⟩
  · exact moves_of_agentMove hv (by simp) (rcMove_of_wake hr ((newFlag_eq_true_iff ..).2 hn))
  · exact (slotAt_consume s.blk 0 0).trans (if_pos rfl)
  · exact (slotAt_consume s.blk 0 n).trans (if_neg h0)
  · exact moves_of_agentMove hv (by simp) (rcMove_of_check hr)

/-- Settles O35: a record's word by its tag, and an emission by the three branches of R200. -/
theorem rcEmitsOneRecord : Obligations.RcEmitsOneRecord := by
  refine ⟨fun n v r tag hr => ?_, fun s hv hr hp => ?_⟩
  · simp only [List.mem_cons, List.not_mem_nil, or_false, Prod.mk.injEq] at hr
    rcases hr with ⟨rfl, rfl⟩ | ⟨rfl, rfl⟩ | ⟨rfl, rfl⟩ <;> exact taggedWord_fields _ n v
  · intro l k v
    have hemit : Moves .rc s (rcEmit s.blk) [] := moves_of_agentMove hv (by simp) (rcMove_of_portEmpty hr hp)
    by_cases hvalid : s.blk.bankVer.get l.latBank = l.latVer
    · have hflag : validFlag s.blk 0 = true := (validFlag_iff ..).2 hvalid
      rw [if_neg (not_not.2 hvalid)]
      by_cases hlt : s.blk.rcIdx < s.blk.rcCount.toNat
      · rw [rcEmit_of_more hflag hlt, rcData_eq] at hemit
        rwa [if_pos hlt]
      · rw [rcEmit_of_done hflag hlt] at hemit
        rwa [if_neg hlt]
    · have hflag : validFlag s.blk 0 = false := eq_false_of_ne_true fun h => hvalid ((validFlag_iff ..).1 h)
      rw [rcEmit_of_overwritten hflag, rcAbort_eq_armed] at hemit
      rwa [if_pos hvalid]

/-- Settles O36. -/
theorem rportTakesRecord : Obligations.RportTakesRecord := fun _ _ hv hr =>
  moves_of_agentMove hv (by simp) (rportMove_of_portFull hr)

/-! ### The writers of the version and of the slots -/

/-- Of the agents' steps only PUB, a wake of RC and RESET write the version or a slot. -/
theorem versionAndSlots_agentStep {c : Config} {b b' : Block} {a : Action} {evs : List Event}
    (hs : AgentStep c b a b' evs) :
    (b'.version = b.version ∧ b'.slots = b.slots) ∨ a = .reset ∨
      (a = .engine ∧ b.engPhase = .pub ∧ b' = engPub b) ∨
      (a = .rc ∧ b.rcState = .waiting ∧ b' = { consume b 0 with rcState := .check }) := by
  have hkept {b' : Block} (he : channel b' = channel b) : b'.version = b.version ∧ b'.slots = b.slots :=
    ⟨version_of_channel he, congrArg Channel.slots he⟩
  have htick (x : Sample) : channel (if b.acqRun then acquire c x b else b) = channel b :=
    channel_ite (channel_acquire c x b) rfl
  cases hs with
  | reset => exact .inr (.inl rfl)
  | engPub hp => exact .inr (.inr (.inl ⟨rfl, hp, rfl⟩))
  | rcWake hr => exact .inr (.inr (.inr ⟨rfl, hr, rfl⟩))
  | tick x | streamTick x => exact .inl (hkept (htick x :))
  | engStart | engLoad | rcCheck => exact .inl (hkept (channel_ite rfl rfl))
  | engFft => rw [fftAdvance_eq]; exact .inl ⟨rfl, rfl⟩
  | engMag => rw [engMag_eq]; exact .inl ⟨rfl, rfl⟩
  | rcEmit => exact .inl (hkept (channel_rcEmit b))
  | rport => exact .inl ⟨rfl, rfl⟩
  | db pins te => exact .inl (hkept (channel_dbInputs ..))

theorem version_hostStep {c : Config} {b b' : Block} (hs : HostStep c b b') : b'.version = b.version := by
  obtain ⟨⟨_, _, _, _, _, _, _, _, hver, _⟩, _⟩ := sameEngine_hostStep hs
  exact hver

/-- Settles O50, by the kinds of step. -/
theorem versionChangesOnlyAtPublish : Obligations.VersionChangesOnlyAtPublish := by
  intro s t h hne
  obtain ⟨_, _, evs, _, ⟨he, _⟩ | ⟨hhost, _⟩ | hagent⟩ := step_effect h
  · exact absurd (congrArg Block.version he) hne
  · exact absurd (version_hostStep hhost) hne
  · rcases versionAndSlots_agentStep hagent with ⟨hver, _⟩ | ha | ⟨ha, hp, he⟩ | ⟨_, _, he⟩
    · exact absurd hver hne
    · exact .inl ha
    · rw [he]
      exact .inr ⟨ha, hp, rfl, rfl⟩
    · exact absurd (congrArg Block.version he) hne

/-- SUB_ACK refuses slot 0, the report consumer's own (R107, R195). -/
theorem slotAt_zero_hostStep {c : Config} {b b' : Block} (hs : HostStep c b b') : slotAt b' 0 = slotAt b 0 := by
  cases hs with
  | subAck hpos => exact (slotAt_consume b _ 0).trans (if_neg (by omega))
  | _ => rfl

/-- Of the host accesses only SUB_ACK of a slot writes that slot, which is not slot 0. -/
theorem slotAt_exec {i : Instr} {s t : State} {n : ℕ} (h : exec i s = .next t)
    (hne : slotAt t.blk n ≠ slotAt s.blk n) : n ≠ 0 ∧ ∃ sub, asCommand i = some (.subAck sub) ∧ sub.toNat = n := by
  have hzero : n ≠ 0 := by
    rintro rfl
    exact hne (slotAt_zero_hostStep (hostStep_of_exec h))
  refine ⟨hzero, ?_⟩
  cases hc : asCommand i with
  | none => exact absurd (slotAt_of_channel (channel_of_exec_register hc h) n) hne
  | some c =>
    rw [exec_eq_of_asCommand hc] at h
    rcases channel_of_exec_command h with he | ⟨sub, rfl, he⟩
    · exact absurd (slotAt_of_channel he n) hne
    · rw [slotAt_of_channel he, slotAt_consume] at hne
      exact ⟨sub, rfl, by_contra fun hn => hne (if_neg (Ne.symm hn))⟩

theorem slotAt_agentStep {c : Config} {b b' : Block} {a : Action} {evs : List Event} {n : ℕ}
    (hs : AgentStep c b a b' evs) (hne : slotAt b' n ≠ slotAt b n) :
    a = .reset ∨ (n = 0 ∧ a = .rc ∧ b.rcState = .waiting) := by
  rcases versionAndSlots_agentStep hs with ⟨_, hslots⟩ | ha | ⟨_, _, rfl⟩ | ⟨ha, hr, rfl⟩
  · exact absurd (congrArg (Memory.get Latch.atReset · n) hslots) hne
  · exact .inl ha
  · exact absurd rfl hne
  · exact .inr ⟨by_contra fun hn => hne ((slotAt_consume b 0 n).trans (if_neg hn)), ha, hr⟩

/-- Settles O53, by the kinds of step. -/
theorem slotsChangeOnlyWhenTheyConsume : Obligations.SlotsChangeOnlyWhenTheyConsume := by
  intro s t n h hne
  obtain ⟨_, ⟨r, _, _, ha, hexec, _⟩ | ⟨_, ⟨_, _, hm, rfl⟩ | ⟨_, rfl⟩⟩⟩ := step_cases h
  · obtain ⟨hzero, sub, hack, hn⟩ := slotAt_exec hexec (by simpa using hne)
    exact .inr (.inr ⟨hzero, r, sub, ha, hack, hn⟩)
  · exact (slotAt_agentStep (agentStep_of_agentMove hm) hne).imp id .inl
  · exact absurd (by simp) hne

/-! ### A valid latch -/

/-- What a step of the machine does to the publication channel, whichever agent is picked. -/
theorem channelStep_of_nextAction {s t : State} (h : step s = .next t) (hr : s.nextAction ≠ .reset) :
    ChannelStep s.nextAction s.blk t.blk := by
  obtain ⟨_, ⟨r, _, _, ha, hexec, _⟩ | ⟨_, ⟨_, _, hm, rfl⟩ | ⟨_, rfl⟩⟩⟩ := step_cases h
  · rw [ha]
    simpa using channelStep_of_exec hexec
  · exact channelStep_of_agentStep (agentStep_of_agentMove hm) hr
  · exact .same (by simp)

/-- Settles O55: only a MAG step writes a result word, in the back bank, whose stamp is that of the version to come; a
latch that is valid and not of that version is of the other bank (R176, R178). -/
theorem validLatchKeepsWords : Obligations.ValidLatchKeepsWords := fun _ _ _ hi h hr hslot hver hvalid =>
  validLatch_of_channelStep hi (channelStep_of_nextAction h hr) hslot hver hvalid

end Sys2Proof.Machine
end

section
/-! The family of spec/45_debounce_events.md: what a DB step does to every input (R211 to R214), which of the expiring inputs
is queued (R215, R216), that the unit reads nothing of the rest of the block (R219), and how a whole delay ends (R217). -/

namespace Sys2Proof.Machine

open Sys2Proof

/-! ### One input -/

/-- The registers after a DB step of an input that had `d` and is now at the asserted level `a`: the level the machine sees
is the old `s1`, and an edge goes before a tick (R211 to R214). -/
def nextInput (delay : ℕ) (a te : Bool) (d : DbInput) : DbInput where
  s1 := a
  s2 := d.s1
  s3 := d.s2
  st := if d.s1 = true ∧ d.s2 = false then .deb
    else if (d.st = .deb ∧ te = true) ∧ d.cnt.toNat ≤ 1 then .idle else d.st
  cnt := if d.s1 = true ∧ d.s2 = false then BitVec.ofNat 16 delay
    else if (d.st = .deb ∧ te = true) ∧ 1 < d.cnt.toNat then d.cnt - 1 else d.cnt

/-- What the synchronizer and the debounce machine make of an input, by whether it sees an edge, counts, or expires. -/
theorem debounce_syncShift (delay : ℕ) (d : DbInput) (a te : Bool) :
    debounce delay (syncShift d a) te = (nextInput delay a te d, pushesEvent d te) := by
  obtain ⟨s1, s2, s3, st, cnt⟩ := d
  by_cases hedge : s1 = true ∧ s2 = false
  · obtain ⟨rfl, rfl⟩ := hedge
    cases st <;> rfl
  · have hseen : (s1 && !s2) = false := by simpa using hedge
    unfold debounce syncShift edgeSeen nextInput pushesEvent
    cases st with
    | idle => simp [hseen, hedge]
    | deb =>
      cases te with
      | false => simp [hseen, hedge]
      | true =>
        rcases le_or_gt cnt.toNat 1 with hlast | hmore
        · simp [hseen, hedge, hlast, hlast.not_gt]
        · simp [hseen, hedge, hmore, hmore.not_ge]

/-! ### The inputs in turn -/

/-- The block with other registers of the inputs. -/
def withInputs (b : Block) (m : Memory DbInput) : Block := { b with inputs := m }

theorem pushEvent_withInputs (b : Block) (m : Memory DbInput) (i : ℕ) :
    pushEvent (withInputs b m) i = withInputs (pushEvent b i) m := by
  rw [pushEvent_eq, pushEvent_eq, apply_ite (withInputs · m)]
  rfl

theorem inputAt_pushEvent (b : Block) (i k : ℕ) : inputAt (pushEvent b i) k = inputAt b k := by
  rw [pushEvent_eq]
  split <;> rfl

/-- The inputs below `n` whose delay expires asserted, in increasing order. -/
def expiringInputs (te : Bool) (b : Block) (n : ℕ) : List ℕ :=
  (List.range n).filter fun i => pushesEvent (inputAt b i) te

theorem expiringInputs_succ (te : Bool) (b : Block) (n : ℕ) :
    expiringInputs te b (n + 1) = expiringInputs te b n ++ if pushesEvent (inputAt b n) te then [n] else [] := by
  rw [expiringInputs, List.range_succ, List.filter_append, List.filter_singleton, Bool.cond_eq_ite]
  rfl

section
variable (c : Config) (pins : BitVec 16) (te : Bool)

/-- The registers of input `i` of the block `b` after a DB step. -/
abbrev steppedInput (b : Block) (i : ℕ) : DbInput := nextInput c.dbDelay (pinAsserted c pins i) te (inputAt b i)

theorem dbInputStep_eq (b : Block) (i : ℕ) :
    dbInputStep c pins te b i =
      if pushesEvent (inputAt b i) te then pushEvent (setInput b i (steppedInput c pins te b i)) i
      else setInput b i (steppedInput c pins te b i) := by
  unfold dbInputStep
  rw [debounce_syncShift]

theorem inputAt_dbInputStep (b : Block) (i k : ℕ) :
    inputAt (dbInputStep c pins te b i) k = if k = i then steppedInput c pins te b i else inputAt b k := by
  rw [dbInputStep_eq]
  split
  · rw [inputAt_pushEvent, inputAt_setInput]
  · rw [inputAt_setInput]

/-- Each input below `n` takes its step from its own registers alone, and no other changes. -/
theorem inputAt_dbInputs (b : Block) (n i : ℕ) :
    inputAt (dbInputs c pins te b n) i = if i < n then steppedInput c pins te b i else inputAt b i := by
  induction n with
  | zero => rfl
  | succ n ih =>
    rw [dbInputs, inputAt_dbInputStep]
    rcases lt_trichotomy i n with hlt | rfl | hgt
    · rw [if_neg hlt.ne, ih, if_pos hlt, if_pos (hlt.trans n.lt_succ_self)]
    · rw [if_pos rfl, if_pos i.lt_succ_self, steppedInput, ih, if_neg (lt_irrefl i)]
    · rw [if_neg hgt.ne', ih, if_neg hgt.not_gt, if_neg (by omega)]

/-- But for the inputs, a DB step is the pushes of the expiring inputs, the lowest first (R216). -/
theorem dbInputs_eq_pushes (b : Block) (n : ℕ) :
    dbInputs c pins te b n =
      withInputs ((expiringInputs te b n).foldl pushEvent b) (dbInputs c pins te b n).inputs := by
  induction n with
  | zero => rfl
  | succ n ih =>
    have hinput : inputAt (dbInputs c pins te b n) n = inputAt b n :=
      (inputAt_dbInputs c pins te b n n).trans (if_neg (lt_irrefl n))
    have hset (v : DbInput) : setInput (dbInputs c pins te b n) n v =
        withInputs ((expiringInputs te b n).foldl pushEvent b)
          ((dbInputs c pins te b n).inputs.set DbInput.atReset n v) := by
      rw [setInput, ih]
      rfl
    rw [dbInputs, dbInputStep_eq, hinput, expiringInputs_succ, List.foldl_append, hset]
    split
    · rw [pushEvent_withInputs]
      rfl
    · rfl

end

/-! ### The events of one DB step -/

/-- On a full queue every push is dropped and counted. -/
theorem foldl_pushEvent_of_full {b : Block} (h : b.evqValid = true) (is : List ℕ) :
    is.foldl pushEvent b =
      { b with dropCnt := b.dropCnt + BitVec.ofNat 32 is.length
               irqStat := b.irqStat ||| if 0 < is.length then irqDrop else 0 } := by
  induction is generalizing b with
  | nil => simp
  | cons i is ih =>
    have hdrop : pushEvent b i = { b with dropCnt := b.dropCnt + 1, irqStat := b.irqStat ||| irqDrop } := by
      rw [pushEvent_eq, if_pos h]
    have hcount : b.dropCnt + 1 + BitVec.ofNat 32 is.length = b.dropCnt + BitVec.ofNat 32 (is.length + 1) := by
      rw [add_assoc, add_comm 1, BitVec.ofNat_add]
      rfl
    have hirq : (b.irqStat ||| irqDrop ||| if 0 < is.length then irqDrop else 0) = b.irqStat ||| irqDrop := by
      split <;> simp [BitVec.or_assoc]
    rw [List.foldl_cons, ih (by rw [hdrop]; exact h), hdrop]
    simp only [List.length_cons, Nat.succ_pos, if_true, hcount, hirq]

/-- On an empty queue the first push is queued, and the others are dropped and counted. -/
theorem foldl_pushEvent_of_empty {b : Block} (h : b.evqValid = false) (i : ℕ) (is : List ℕ) :
    (i :: is).foldl pushEvent b =
      { b with evqValid := true
               evqEntry := { idx := BitVec.ofNat 8 i, cls := clsDiagDump }
               dropCnt := b.dropCnt + BitVec.ofNat 32 is.length
               irqStat := b.irqStat ||| irqEvq ||| if 0 < is.length then irqDrop else 0 } := by
  have hqueue : pushEvent b i = { b with evqValid := true
                                         evqEntry := { idx := BitVec.ofNat 8 i, cls := clsDiagDump }
                                         irqStat := b.irqStat ||| irqEvq } := by
    rw [pushEvent_eq, if_neg (by simp [h])]
  rw [List.foldl_cons, foldl_pushEvent_of_full (by rw [hqueue]), hqueue]

/-! ### The DB step of the machine -/

theorem moves_db {s : State} (hv : configValid s.cfg = true) (pins : BitVec 16) (te : Bool) :
    Moves (.db pins te) s (dbInputs s.cfg pins te s.blk s.cfg.nIn) [] :=
  moves_of_agentMove hv (by simp) rfl

/-- Settles O38: each input's registers after the step are `nextInput` of its old ones. -/
theorem dbStepsEveryInput : Obligations.DbStepsEveryInput := by
  intro pins te s hv
  refine ⟨_, moves_db hv pins te, fun i hi => ?_, fun i hi => ?_⟩
  · rw [inputAt_dbInputs, if_neg hi.not_gt]
  · rw [inputAt_dbInputs, if_pos hi]
    rfl

/-- Settles O39: the step's pushes, by whether the queue is full and whether an input expires. -/
theorem dbPushesLowestInput : Obligations.DbPushesLowestInput := by
  intro pins te s hv expiring queued dropped
  refine ⟨_, moves_db hv pins te, (dbInputs_eq_pushes ..).trans ?_⟩
  rw [show expiringInputs te s.blk s.cfg.nIn = expiring from rfl]
  cases hfull : s.blk.evqValid with
  | true =>
    have hqueued : queued = false := by simp [queued, hfull]
    have hdropped : dropped = expiring.length := if_neg (by simp [hqueued])
    rw [foldl_pushEvent_of_full hfull, hqueued, hdropped]
    simp [withInputs, hfull, irqDrop]
  | false =>
    cases hexp : expiring with
    | nil =>
      have hqueued : queued = false := by simp [queued, hexp]
      have hdropped : dropped = 0 := by simp [dropped, hqueued, hexp]
      rw [hqueued, hdropped]
      simp [withInputs, hfull]
    | cons i is =>
      have hqueued : queued = true := by simp [queued, hfull, hexp]
      have hdropped : dropped = is.length := by simp [dropped, hqueued, hexp]
      rw [foldl_pushEvent_of_empty hfull, hqueued, hdropped]
      rfl

/-! ### Independence of the rest of the block -/

theorem sameDebounce_pushEvent {b b' : Block} (h : SameDebounce b b') (i : ℕ) :
    SameDebounce (pushEvent b i) (pushEvent b' i) := by
  obtain ⟨hinputs, hvalid, hentry⟩ := h
  rw [pushEvent_eq, pushEvent_eq, hvalid]
  split
  · exact ⟨hinputs, rfl, hentry⟩
  · exact ⟨hinputs, rfl, rfl⟩

theorem sameDebounce_setInput {b b' : Block} (h : SameDebounce b b') (i : ℕ) (v : DbInput) :
    SameDebounce (setInput b i v) (setInput b' i v) := by
  obtain ⟨hinputs, hqueue⟩ := h
  exact ⟨congrArg (·.set DbInput.atReset i v) hinputs, hqueue⟩

theorem sameDebounce_dbInputStep (c : Config) (pins : BitVec 16) (te : Bool) {b b' : Block} (h : SameDebounce b b')
    (i : ℕ) : SameDebounce (dbInputStep c pins te b i) (dbInputStep c pins te b' i) := by
  have ⟨hinputs, _⟩ := h
  have hinput : inputAt b' i = inputAt b i := congrArg (·.get DbInput.atReset i) hinputs
  rw [dbInputStep_eq, dbInputStep_eq, steppedInput, steppedInput, hinput]
  split
  · exact sameDebounce_pushEvent (sameDebounce_setInput h i _) i
  · exact sameDebounce_setInput h i _

theorem sameDebounce_dbInputs (c : Config) (pins : BitVec 16) (te : Bool) {b b' : Block} (h : SameDebounce b b') (n : ℕ) :
    SameDebounce (dbInputs c pins te b n) (dbInputs c pins te b' n) := by
  induction n with
  | zero => exact h
  | succ n ih => exact sameDebounce_dbInputStep c pins te ih n

/-- Settles O40, by the steps of the inputs in turn. -/
theorem debounceIgnoresTheRest : Obligations.DebounceIgnoresTheRest := fun c pins te _ _ h =>
  ⟨_, _, rfl, rfl, sameDebounce_dbInputs c pins te h c.nIn⟩

/-! ### A whole delay -/

/-- The DB step with a debounce tick. -/
def dbTick (c : Config) (pins : BitVec 16) (b : Block) : Block := dbInputs c pins true b c.nIn

/-- DB ticks with no step of another agent between them. -/
theorem run_dbTicks {pins : BitVec 16} {rest : List Action} {s : State} (hv : configValid s.cfg = true) {n : ℕ}
    (hs : s.sched = List.replicate n (.db pins true) ++ rest) :
    ∃ t, Sys2Proof.core.run n s = .next t ∧ t.sched = rest ∧ t.blk = (dbTick s.cfg pins)^[n] s.blk := by
  induction n generalizing s with
  | zero => exact ⟨s, rfl, hs, rfl⟩
  | succ n ih =>
    obtain ⟨t, hstep, hblk, hcfg, hsched⟩ :=
      step_of_moves hs (moves_db (s := { s with sched := List.replicate n (.db pins true) ++ rest }) hv pins true)
    obtain ⟨u, hrun, husched, hublk⟩ := ih (hcfg ▸ hv) hsched
    refine ⟨u, (run_succ_of_step hstep n).trans hrun, husched, ?_⟩
    rw [hublk, hcfg, hblk]
    rfl

/-- The delay of input 0 has `m` ticks left and its level is `a` with no edge to come, and of the block only the inputs
differ from `b₀`. -/
structure CountingDown (a : Bool) (b₀ : Block) (m : ℕ) (b : Block) : Prop where
  st : (inputAt b 0).st = .deb
  level : (inputAt b 0).s1 = a
  settled : a = true → (inputAt b 0).s2 = true
  ticks : (inputAt b 0).cnt.toNat = m
  kept : b = withInputs b₀ b.inputs

section
variable {c : Config} {pins : BitVec 16} {a : Bool} {b₀ b : Block} {m : ℕ}

theorem CountingDown.no_edge (h : CountingDown a b₀ m b) :
    ¬((inputAt b 0).s1 = true ∧ (inputAt b 0).s2 = false) := by
  rintro ⟨hs1, hs2⟩
  exact Bool.false_ne_true (hs2.symm.trans (h.settled (h.level.symm.trans hs1)))

/-- The delay pushes its event at the last tick, if the level is asserted then (R214). -/
theorem CountingDown.pushesEvent_eq (h : CountingDown a b₀ m b) :
    pushesEvent (inputAt b 0) true = (decide (m ≤ 1) && a) := by
  have hseen : (a && !(inputAt b 0).s2) = false := by simpa [h.level] using h.no_edge
  rw [pushesEvent, h.st, h.level, h.ticks, hseen]
  rfl

theorem inputAt_dbTick (hn : c.nIn = 1) (b : Block) :
    inputAt (dbTick c pins b) 0 = steppedInput c pins true b 0 := by
  rw [dbTick, inputAt_dbInputs, if_pos (by omega)]

/-- A tick of one input pushes its event or no event, and changes nothing else but the input. -/
theorem CountingDown.dbTick_eq (hn : c.nIn = 1) (h : CountingDown a b₀ m b) :
    dbTick c pins b = withInputs (if m ≤ 1 ∧ a = true then pushEvent b₀ 0 else b₀) (dbTick c pins b).inputs := by
  have hevents : (expiringInputs true b c.nIn).foldl pushEvent b = if m ≤ 1 ∧ a = true then pushEvent b 0 else b := by
    rw [hn, expiringInputs_succ, h.pushesEvent_eq]
    by_cases hlast : m ≤ 1 ∧ a = true
    · simp [hlast, expiringInputs]
    · simp [hlast, expiringInputs]
  have hkept : (if m ≤ 1 ∧ a = true then pushEvent b 0 else b) =
      withInputs (if m ≤ 1 ∧ a = true then pushEvent b₀ 0 else b₀) b.inputs := by
    rw [apply_ite (withInputs · b.inputs), ← pushEvent_withInputs, ← h.kept]
  refine (dbInputs_eq_pushes ..).trans ?_
  rw [hevents, hkept]
  rfl

/-- A tick before the last leaves one tick less, and no event. -/
theorem CountingDown.tick (hn : c.nIn = 1) (hpin : pinAsserted c pins 0 = a) (h : CountingDown a b₀ (m + 2) b) :
    CountingDown a b₀ (m + 1) (dbTick c pins b) := by
  have hmore : 1 < (inputAt b 0).cnt.toNat := by rw [h.ticks]; omega
  have hnext : inputAt (dbTick c pins b) 0 =
      { s1 := a, s2 := a, s3 := (inputAt b 0).s2, st := .deb, cnt := (inputAt b 0).cnt - 1 } := by
    rw [inputAt_dbTick hn, steppedInput, hpin, nextInput, if_neg h.no_edge, if_neg h.no_edge,
      if_neg fun hlast => hlast.2.not_gt hmore, if_pos ⟨⟨h.st, rfl⟩, hmore⟩, h.level, h.st]
  refine ⟨by rw [hnext], by rw [hnext], fun ha => by rw [hnext, ha], ?_, ?_⟩
  · have hticks := h.ticks
    rw [hnext]
    bv_omega
  · exact (h.dbTick_eq hn).trans (by rw [if_neg (by omega)])

/-- The last tick ends the delay, with an event if the level is asserted. -/
theorem CountingDown.lastTick (hn : c.nIn = 1) (h : CountingDown a b₀ 1 b) :
    (inputAt (dbTick c pins b) 0).st = .idle ∧
      dbTick c pins b = withInputs (if a then pushEvent b₀ 0 else b₀) (dbTick c pins b).inputs := by
  constructor
  · rw [inputAt_dbTick hn, steppedInput, nextInput, if_neg h.no_edge, if_pos ⟨⟨h.st, rfl⟩, h.ticks.le⟩]
  · simpa using h.dbTick_eq hn

/-- After fewer ticks than are left, the delay still runs. -/
theorem CountingDown.ticks_lt (hn : c.nIn = 1) (hpin : pinAsserted c pins 0 = a) (h : CountingDown a b₀ m b₀)
    {k : ℕ} (hk : k < m) : CountingDown a b₀ (m - k) ((dbTick c pins)^[k] b₀) := by
  induction k with
  | zero => exact h
  | succ k ih =>
    obtain ⟨j, rfl⟩ := Nat.exists_eq_add_of_lt hk
    have hprev := ih (by omega)
    rw [Function.iterate_succ_apply', show k + 1 + j + 1 - (k + 1) = j + 1 by omega]
    rw [show k + 1 + j + 1 - k = j + 2 by omega] at hprev
    exact hprev.tick hn hpin

/-- After as many ticks as are left the delay has ended, with an event if the level is asserted. -/
theorem CountingDown.all_ticks (hn : c.nIn = 1) (hpin : pinAsserted c pins 0 = a) (hm : 1 ≤ m)
    (h : CountingDown a b₀ m b₀) (hb : b = (dbTick c pins)^[m] b₀) :
    (inputAt b 0).st = .idle ∧ b = withInputs (if a then pushEvent b₀ 0 else b₀) b.inputs := by
  obtain ⟨k, rfl⟩ := Nat.exists_eq_add_of_le' hm
  have hlast := h.ticks_lt hn hpin k.lt_succ_self
  rw [Nat.add_sub_cancel_left] at hlast
  rw [hb, Function.iterate_succ_apply']
  exact hlast.lastTick hn

end

/-- Settles O41: the delay counts down to its last tick, which queues the event. -/
theorem delayExpiresAtItsLastTick : Obligations.DelayExpiresAtItsLastTick := by
  intro pins rest s hv hn hpin hs1 hs2 hst hm hempty hs
  have hstart : CountingDown true s.blk (inputAt s.blk 0).cnt.toNat s.blk := ⟨hst, hs1, fun _ => hs2, rfl, rfl⟩
  refine ⟨fun k hk => ?_, ?_⟩
  · obtain ⟨j, hj⟩ := Nat.exists_eq_add_of_le hk.le
    rw [hj, List.replicate_add, List.append_assoc] at hs
    obtain ⟨t, hrun, _, hblk⟩ := run_dbTicks hv hs
    have hcount := hstart.ticks_lt hn hpin hk
    rw [← hblk] at hcount
    exact ⟨t, hrun, hcount.st, (congrArg Block.evqValid hcount.kept).trans hempty,
      (congrArg Block.dropCnt hcount.kept).trans rfl⟩
  · obtain ⟨t, hrun, hsched, hblk⟩ := run_dbTicks hv hs
    obtain ⟨hidle, hkept⟩ := hstart.all_ticks hn hpin hm hblk
    rw [if_pos rfl, pushEvent_eq, if_neg (by simp [hempty])] at hkept
    exact ⟨t, hrun, hsched, hidle, (congrArg Block.evqValid hkept).trans rfl, (congrArg Block.evqEntry hkept).trans rfl,
      (congrArg Block.dropCnt hkept).trans rfl, (congrArg Block.irqStat hkept).trans rfl⟩

/-- Settles O42: the last tick finds the level released. -/
theorem releaseBeforeExpiryIsRejected : Obligations.ReleaseBeforeExpiryIsRejected := by
  intro pins rest s hv hn hpin hs1 hst hm hs
  have hstart : CountingDown false s.blk (inputAt s.blk 0).cnt.toNat s.blk := ⟨hst, hs1, nofun, rfl, rfl⟩
  obtain ⟨t, hrun, hsched, hblk⟩ := run_dbTicks hv hs
  obtain ⟨hidle, hkept⟩ := hstart.all_ticks hn hpin hm hblk
  exact ⟨t, hrun, hsched, hidle, (congrArg Block.evqValid hkept).trans rfl, (congrArg Block.evqEntry hkept).trans rfl,
    (congrArg Block.dropCnt hkept).trans rfl, (congrArg Block.irqStat hkept).trans rfl⟩

end Sys2Proof.Machine
end

section
/-! The family of spec/60_exceptions.md: who writes the waveform and the report request (R243), and that an interrupt bit is
cleared by an acknowledgement alone (R238). -/

namespace Sys2Proof.Machine

open Sys2Proof

/-! ### The registers that a host controls -/

/-- The registers whose writers R238 and R243 name: the active waveform (spec/10_state.md R24), the report request (R41),
and the interrupt bits and enables (R46). -/
structure Controls where
  activeWave : BitVec 8
  reqStart : BinWord
  reqCount : BinWord
  armed : Bool
  irqStat : BitVec 9
  irqEn : BitVec 9

def controls (b : Block) : Controls where
  activeWave := b.activeWave
  reqStart := b.reqStart
  reqCount := b.reqCount
  armed := b.armed
  irqStat := b.irqStat
  irqEn := b.irqEn

theorem controls_irqSet_congr {b b' : Block} (h : controls b' = controls b) (bits : BitVec 9) :
    controls (irqSet b' bits) = controls (irqSet b bits) :=
  congrArg (fun r : Controls => { r with irqStat := r.irqStat ||| bits }) h

theorem irqSet_irqSet (b : Block) (m m' : BitVec 9) : irqSet (irqSet b m) m' = irqSet b (m ||| m') := by
  simp [irqSet, BitVec.or_assoc]

theorem request_of_controls {b b' : Block} (h : controls b' = controls b) :
    b'.reqStart = b.reqStart ∧ b'.reqCount = b.reqCount ∧ b'.armed = b.armed :=
  ⟨congrArg Controls.reqStart h, congrArg Controls.reqCount h, congrArg Controls.armed h⟩

theorem not_request_ne {b b' : Block} (h : b'.reqStart = b.reqStart ∧ b'.reqCount = b.reqCount ∧ b'.armed = b.armed) :
    ¬(b'.reqStart ≠ b.reqStart ∨ b'.reqCount ≠ b.reqCount ∨ b'.armed ≠ b.armed) := by
  obtain ⟨hstart, hcount, harmed⟩ := h
  simp [hstart, hcount, harmed]

/-- Setting bits clears none: IRQ_STAT is sticky (R238). -/
theorem ne_or_of_cleared {n : ℕ} {v v' : BitVec n} {k : ℕ} (hset : v.getLsbD k = true) (hclear : v'.getLsbD k = false)
    (bits : BitVec n) : v' ≠ v ||| bits := by
  rintro rfl
  rw [BitVec.getLsbD_or, hset, Bool.true_or] at hclear
  cases hclear

theorem ne_of_cleared {n : ℕ} {v v' : BitVec n} {k : ℕ} (hset : v.getLsbD k = true) (hclear : v'.getLsbD k = false) :
    v' ≠ v := by
  rintro rfl
  exact Bool.false_ne_true (hclear.symm.trans hset)

/-- Of the controls `b'` differs from `b` in interrupt bits that were set, and in nothing else: what an event leaves
(R240). -/
def RecordsOnly (b b' : Block) : Prop := ∃ bits, controls b' = controls (irqSet b bits)

namespace RecordsOnly

variable {b b' b'' : Block}

theorem of_controls_eq (h : controls b' = controls b) : RecordsOnly b b' := ⟨0, h.trans (by simp [controls])⟩

theorem irqSet_right (h : RecordsOnly b b') (bits : BitVec 9) : RecordsOnly b (irqSet b' bits) := by
  obtain ⟨bits', h⟩ := h
  exact ⟨bits' ||| bits, irqSet_irqSet b bits' bits ▸ controls_irqSet_congr h bits⟩

theorem trans (h : RecordsOnly b b') (h' : RecordsOnly b' b'') : RecordsOnly b b'' := by
  obtain ⟨bits, h'⟩ := h'
  obtain ⟨bits', h⟩ := h.irqSet_right bits
  exact ⟨bits', h'.trans h⟩

theorem ite {p : Prop} [Decidable p] {u v : Block} (hu : RecordsOnly b u) (hv : RecordsOnly b v) :
    RecordsOnly b (if p then u else v) :=
  iteInduction (motive := RecordsOnly b) (fun _ => hu) fun _ => hv

theorem activeWave (h : RecordsOnly b b') : b'.activeWave = b.activeWave := by
  obtain ⟨_, h⟩ := h
  exact congrArg Controls.activeWave h

theorem request (h : RecordsOnly b b') :
    b'.reqStart = b.reqStart ∧ b'.reqCount = b.reqCount ∧ b'.armed = b.armed := by
  obtain ⟨_, h⟩ := h
  exact (request_of_controls h :)

theorem irqEn (h : RecordsOnly b b') : b'.irqEn = b.irqEn := by
  obtain ⟨_, h⟩ := h
  exact congrArg Controls.irqEn h

theorem irqStat (h : RecordsOnly b b') : ∃ bits, b'.irqStat = b.irqStat ||| bits := by
  obtain ⟨bits, h⟩ := h
  exact ⟨bits, congrArg Controls.irqStat h⟩

end RecordsOnly

/-! ### The HOST agent -/

/-- What the access `i` can do to the controls. -/
inductive HostControl (i : Instr) (b b' : Block) : Prop
  /-- Nothing, or a start that fails sets FATAL (spec/42_acquisition_output.md R146). -/
  | records (h : RecordsOnly b b')
  /-- SELECT_WAVE (spec/40_host_commands.md R105). -/
  | selects {wave : BitVec 8} (hi : asCommand i = some (.selectWave wave))
      (h : controls b' = controls { b with activeWave := wave })
  /-- ARM_REPORT (R106). -/
  | arms {start count : BinWord} (hi : asCommand i = some (.armReport start count))
      (h : controls b' = controls { b with reqStart := start, reqCount := count, armed := true })
  /-- A write to IRQ_STAT (spec/41_register_access.md R124). -/
  | acknowledges {data : Word} (hi : i = .wrIrqStat data) (h : controls b' = controls (irqAck b (data.setWidth 9)))
  /-- A write to IRQ_EN (R125). -/
  | enables {data : Word} (hi : i = .wrIrqEn data) (h : controls b' = controls { b with irqEn := data.setWidth 9 })

theorem recordsOnly_acqStartEffect (c : Config) (b : Block) : RecordsOnly b (acqStartEffect c b).1 := by
  unfold acqStartEffect
  split_ifs
  · exact .of_controls_eq rfl
  · exact .of_controls_eq rfl
  · exact ⟨irqFatal, rfl⟩
  · exact .of_controls_eq rfl

theorem recordsOnly_outStartEffect (c : Config) (b : Block) : RecordsOnly b (outStartEffect c b).1 := by
  unfold outStartEffect
  split_ifs
  · exact .of_controls_eq rfl
  · exact .of_controls_eq rfl
  · exact ⟨irqFatal, rfl⟩
  · exact .of_controls_eq rfl

theorem recordsOnly_subAckEffect (c : Config) (sub : BitVec 4) (b : Block) :
    RecordsOnly b (subAckEffect c sub b).1 := by
  unfold subAckEffect
  split_ifs <;> exact .of_controls_eq rfl

theorem hostControl_of_exec_command {i : Instr} {c : Command} (hi : asCommand i = some c) {s t : State}
    (h : exec c.instr s = .next t) : HostControl i s.blk t.blk := by
  cases c with
  | selectWave wave =>
    cases h
    by_cases hw : wave.toNat < s.cfg.nWave
    · rw [selectWaveEffect_of_lt hw]
      exact .selects hi rfl
    · rw [selectWaveEffect_of_not_lt hw]
      exact .records (.of_controls_eq rfl)
  | armReport start count =>
    cases h
    by_cases hr : count.toNat = 0 ∨ start.toNat + count.toNat > 2 ^ s.cfg.lgN / 2
    · rw [armReportEffect_of_invalid hr]
      exact .records (.of_controls_eq rfl)
    · rw [armReportEffect_of_valid hr]
      exact .arms hi rfl
  | acqStart => cases h; exact .records (recordsOnly_acqStartEffect ..)
  | outStart => cases h; exact .records (recordsOnly_outStartEffect ..)
  | subAck sub => cases h; exact .records (recordsOnly_subAckEffect ..)
  | _ => cases h; exact .records (.of_controls_eq rfl)

theorem hostControl_of_exec_register {i : Instr} (hi : asCommand i = none) {s t : State} (h : exec i s = .next t) :
    HostControl i s.blk t.blk := by
  cases i with
  | wrIrqStat data => cases h; exact .acknowledges rfl rfl
  | wrIrqEn data => cases h; exact .enables rfl rfl
  | rdSubStat n | rdSubLatver n => cases h; rw [State.readSlot_blk]; exact .records (.of_controls_eq rfl)
  | rdResSodd n k | rdResS2 n k | rdResS4 n k | rdResS8 n k =>
    cases h; rw [State.readResult_blk]; exact .records (.of_controls_eq rfl)
  | busError width key data =>
    change Host.Outcome.next (if field key 20 20 = 1 then s.writeError else s.readError) = .next t at h
    split at h <;> cases h <;> exact .records (.of_controls_eq rfl)
  | _ => cases hi <;> (cases h; exact .records (.of_controls_eq rfl))

theorem hostControl_of_exec {i : Instr} {s t : State} (h : exec i s = .next t) : HostControl i s.blk t.blk := by
  cases hc : asCommand i with
  | none => exact hostControl_of_exec_register hc h
  | some c => exact hostControl_of_exec_command hc (exec_eq_of_asCommand hc s ▸ h)

namespace HostControl

variable {i : Instr} {b b' : Block}

theorem activeWave (h : HostControl i b b') (hne : b'.activeWave ≠ b.activeWave) :
    ∃ wave, asCommand i = some (.selectWave wave) ∧ b'.activeWave = wave := by
  cases h with
  | selects hi h => exact ⟨_, hi, congrArg Controls.activeWave h⟩
  | records h => exact absurd h.activeWave hne
  | arms _ h | acknowledges _ h | enables _ h => exact absurd (congrArg Controls.activeWave h) hne

theorem request (h : HostControl i b b')
    (hne : b'.reqStart ≠ b.reqStart ∨ b'.reqCount ≠ b.reqCount ∨ b'.armed ≠ b.armed) :
    ∃ start count, asCommand i = some (.armReport start count) ∧
      b'.reqStart = start ∧ b'.reqCount = count ∧ b'.armed = true := by
  cases h with
  | arms hi h => exact ⟨_, _, hi, request_of_controls h⟩
  | records h => exact absurd hne (not_request_ne h.request)
  | selects _ h | acknowledges _ h | enables _ h => exact absurd hne (not_request_ne (request_of_controls h :))

theorem irqStat {k : ℕ} (h : HostControl i b b') (hset : b.irqStat.getLsbD k = true)
    (hclear : b'.irqStat.getLsbD k = false) : ∃ data, i = .wrIrqStat data ∧ data.getLsbD k = true := by
  cases h with
  | @acknowledges data hi h =>
    have hack : b'.irqStat = b.irqStat &&& ~~~(data.setWidth 9) := congrArg Controls.irqStat h
    have hk : k < 9 := BitVec.lt_of_getLsbD hset
    exact ⟨data, hi, by simpa [hack, hset, hk] using hclear⟩
  | records h =>
    obtain ⟨bits, he⟩ := h.irqStat
    exact absurd he (ne_or_of_cleared hset hclear bits)
  | selects _ h | arms _ h | enables _ h => exact absurd (congrArg Controls.irqStat h) (ne_of_cleared hset hclear)

theorem irqEn (h : HostControl i b b') (hne : b'.irqEn ≠ b.irqEn) : ∃ data, i = .wrIrqEn data := by
  cases h with
  | enables hi h => exact ⟨_, hi⟩
  | records h => exact absurd h.irqEn hne
  | selects _ h | arms _ h | acknowledges _ h => exact absurd (congrArg Controls.irqEn h) hne

end HostControl

/-! ### The other agents -/

theorem recordsOnly_acquire (c : Config) (x : Sample) (b : Block) : RecordsOnly b (acquire c x b) := by
  rw [acquire_eq_add]
  exact (((RecordsOnly.of_controls_eq rfl).irqSet_right _).irqSet_right _).irqSet_right _

theorem recordsOnly_tick (c : Config) (x : Sample) (b : Block) :
    RecordsOnly b (if b.acqRun then acquire c x b else b) :=
  .ite (recordsOnly_acquire c x b) (.of_controls_eq rfl)

theorem recordsOnly_engStart (b : Block) : RecordsOnly b (engStart b) :=
  .ite (.of_controls_eq rfl) ⟨irqSkip, rfl⟩

theorem recordsOnly_pushEvent (b : Block) (i : ℕ) : RecordsOnly b (pushEvent b i) := .ite ⟨irqDrop, rfl⟩ ⟨irqEvq, rfl⟩

theorem recordsOnly_dbInputStep (c : Config) (pins : BitVec 16) (te : Bool) (b : Block) (i : ℕ) :
    RecordsOnly b (dbInputStep c pins te b i) := by
  rcases dbInputStep_cases c pins te b i with ⟨_, e⟩ | ⟨_, e⟩ <;> rw [e]
  · exact .of_controls_eq rfl
  · exact .trans (.of_controls_eq rfl) (recordsOnly_pushEvent (setInput b i _) i)

theorem recordsOnly_dbInputs (c : Config) (pins : BitVec 16) (te : Bool) (b : Block) (n : ℕ) :
    RecordsOnly b (dbInputs c pins te b n) := by
  induction n with
  | zero => exact .of_controls_eq rfl
  | succ n ih => exact ih.trans (recordsOnly_dbInputStep ..)

/-- What a step of the agent `a`, other than HOST, can do to the controls. -/
inductive AgentControl (a : Action) (b b' : Block) : Prop
  | records (h : RecordsOnly b b')
  | resets (ha : a = .reset)
  /-- RC_CHECK takes the request (spec/44_publication_report.md R199). -/
  | takes (ha : a = .rc) (hr : b.rcState = .check) (harmed : b.armed = true)
      (h : controls b' = controls { b with armed := false })
  /-- RC_EMIT aborts and arms its own range again (R200). -/
  | rearms (ha : a = .rc) (hr : b.rcState = .emit) (hstale : validFlag b 0 = false) (harmed : b.armed = false)
      (h : controls b' = controls { irqSet b irqRptAbort with
        reqStart := b.rcStart, reqCount := b.rcCount, armed := true })

theorem agentControl_rcCheck {b : Block} (hr : b.rcState = .check) : AgentControl .rc b (rcCheck b) := by
  unfold rcCheck
  split
  case isTrue harmed => exact .takes rfl hr harmed rfl
  case isFalse => exact .records (.of_controls_eq rfl)

theorem agentControl_rcEmit {b : Block} (hr : b.rcState = .emit) : AgentControl .rc b (rcEmit b) := by
  cases hv : validFlag b 0 with
  | true =>
    by_cases hmore : b.rcIdx < b.rcCount.toNat
    · rw [rcEmit_of_more hv hmore]
      exact .records (.of_controls_eq rfl)
    · rw [rcEmit_of_done hv hmore]
      exact .records ⟨irqRptDone, rfl⟩
  | false =>
    rw [rcEmit_of_overwritten hv, rcAbort_eq]
    cases harmed : b.armed with
    | true => exact .records ⟨irqRptAbort, rfl⟩
    | false => exact .rearms rfl hr hv harmed rfl

theorem agentControl_of_agentStep {c : Config} {a : Action} {b b' : Block} {evs : List Event}
    (hs : AgentStep c b a b' evs) : AgentControl a b b' := by
  cases hs with
  | tick x => exact .records (recordsOnly_tick c x b)
  | streamTick x => exact .records ((recordsOnly_tick c x b).trans (.of_controls_eq rfl))
  | engStart => exact .records (recordsOnly_engStart b)
  | engLoad => exact .records (.ite (.of_controls_eq rfl) (.of_controls_eq rfl))
  | engFft => rw [fftAdvance_eq]; exact .records (.of_controls_eq rfl)
  | engMag => rw [engMag_eq]; exact .records (.of_controls_eq rfl)
  | engPub => exact .records ⟨irqPub, rfl⟩
  | rcWake => exact .records (.of_controls_eq rfl)
  | rcCheck hr => exact agentControl_rcCheck hr
  | rcEmit hr => exact agentControl_rcEmit hr
  | rport => exact .records (.of_controls_eq rfl)
  | db pins te => exact .records (recordsOnly_dbInputs ..)
  | reset => exact .resets rfl

namespace AgentControl

variable {a : Action} {b b' : Block}

theorem activeWave (h : AgentControl a b b') (hne : b'.activeWave ≠ b.activeWave) : a = .reset := by
  cases h with
  | resets ha => exact ha
  | records h => exact absurd h.activeWave hne
  | takes _ _ _ h | rearms _ _ _ _ h => exact absurd (congrArg Controls.activeWave h) hne

theorem request (h : AgentControl a b b')
    (hne : b'.reqStart ≠ b.reqStart ∨ b'.reqCount ≠ b.reqCount ∨ b'.armed ≠ b.armed) :
    a = .reset ∨
      (a = .rc ∧ b.rcState = .check ∧ b.armed = true ∧ b'.armed = false ∧
        b'.reqStart = b.reqStart ∧ b'.reqCount = b.reqCount) ∨
      (a = .rc ∧ b.rcState = .emit ∧ b.bankVer.get (slotAt b 0).latBank ≠ (slotAt b 0).latVer ∧ b.armed = false ∧
        b'.armed = true ∧ b'.reqStart = b.rcStart ∧ b'.reqCount = b.rcCount) := by
  cases h with
  | resets ha => exact .inl ha
  | records h => exact absurd hne (not_request_ne h.request)
  | takes ha hr harmed h =>
    obtain ⟨hstart, hcount, hcleared⟩ := request_of_controls h
    exact .inr (.inl ⟨ha, hr, harmed, hcleared, hstart, hcount⟩)
  | rearms ha hr hstale harmed h =>
    obtain ⟨hstart, hcount, hrearmed⟩ := request_of_controls h
    have hver : b.bankVer.get (slotAt b 0).latBank ≠ (slotAt b 0).latVer := fun he =>
      Bool.false_ne_true (hstale.symm.trans ((validFlag_iff b 0).2 he))
    exact .inr (.inr ⟨ha, hr, hver, harmed, hrearmed, hstart, hcount⟩)

/-- No agent but RESET clears a bit of IRQ_STAT. -/
theorem irqStat {k : ℕ} (h : AgentControl a b b') (hset : b.irqStat.getLsbD k = true)
    (hclear : b'.irqStat.getLsbD k = false) : a = .reset := by
  cases h with
  | resets ha => exact ha
  | records h =>
    obtain ⟨bits, he⟩ := h.irqStat
    exact absurd he (ne_or_of_cleared hset hclear bits)
  | takes _ _ _ h => exact absurd (congrArg Controls.irqStat h) (ne_of_cleared hset hclear)
  | rearms _ _ _ _ h => exact absurd (congrArg Controls.irqStat h) (ne_or_of_cleared hset hclear irqRptAbort)

theorem irqEn (h : AgentControl a b b') (hne : b'.irqEn ≠ b.irqEn) : a = .reset := by
  cases h with
  | resets ha => exact ha
  | records h => exact absurd h.irqEn hne
  | takes _ _ _ h | rearms _ _ _ _ h => exact absurd (congrArg Controls.irqEn h) hne

end AgentControl

/-! ### A step -/

/-- What a step of the machine does to the controls, by its agent. -/
theorem control_of_step {s t : State} (h : step s = .next t) :
    (∃ r, s.nextAction = .host r ∧ HostControl (decode r) s.blk t.blk) ∨
      AgentControl s.nextAction s.blk t.blk := by
  obtain ⟨_, ⟨r, _, _, ha, hexec, _⟩ | ⟨_, ⟨_, _, hm, rfl⟩ | ⟨_, rfl⟩⟩⟩ := step_cases h
  · exact .inl ⟨r, ha, by simpa using hostControl_of_exec hexec⟩
  · exact .inr (agentControl_of_agentStep (agentStep_of_agentMove hm))
  · exact .inr (.records (.of_controls_eq (by simp)))

/-- Settles O25, by what a host access and a step can do to the controls. -/
theorem hostMutatorsAreTheOnlyOnes : Obligations.HostMutatorsAreTheOnlyOnes := by
  refine ⟨fun i s t h => ⟨fun hne => ?_, fun hne => ?_⟩, fun s t h => ⟨fun hne => ?_, fun hne => ?_⟩⟩
  · obtain ⟨wave, hi, _⟩ := (hostControl_of_exec h).activeWave hne
    exact ⟨wave, hi⟩
  · obtain ⟨start, count, hi, _⟩ := (hostControl_of_exec h).request hne
    exact ⟨start, count, hi⟩
  · rcases control_of_step h with ⟨r, ha, hhost⟩ | hagent
    · exact .inr ⟨r, (hhost.activeWave hne).imp fun _ hw => ⟨ha, hw⟩⟩
    · exact .inl (hagent.activeWave hne)
  · rcases control_of_step h with ⟨r, ha, hhost⟩ | hagent
    · obtain ⟨start, count, harm⟩ := hhost.request hne
      exact .inr (.inl ⟨r, start, count, ha, harm⟩)
    · exact (hagent.request hne).imp id .inr

/-- Settles O52: an event only sets bits, and of the host's accesses two write the interrupt registers. -/
theorem irqBitsClearedOnlyByAck : Obligations.IrqBitsClearedOnlyByAck := by
  intro s t k h
  rcases control_of_step h with ⟨r, ha, hhost⟩ | hagent
  · exact ⟨fun hset hclear => .inr ⟨r, (hhost.irqStat hset hclear).imp fun _ hw => ⟨ha, hw⟩⟩,
      fun hne => .inr ⟨r, (hhost.irqEn hne).imp fun _ hw => ⟨ha, hw⟩⟩⟩
  · exact ⟨fun hset hclear => .inl (hagent.irqStat hset hclear), fun hne => .inl (hagent.irqEn hne)⟩

end Sys2Proof.Machine
end

section
/-! The family of spec/70_reset_and_hazards.md: the block that a RESET step leaves (R260, R262), and what its registers read
as (R261). -/

namespace Sys2Proof.Machine

open Sys2Proof

/-! ### The memories right after reset -/

@[simp] theorem sbAt_atReset (j : ℕ) : sbAt Block.atReset j = 0 := rfl
@[simp] theorem xAt_atReset (k : ℕ) : xAt Block.atReset k = Cplx.zero := rfl
@[simp] theorem rbAt_atReset (bank : Bank) (k : ℕ) : rbAt Block.atReset bank k = 0 := by cases bank <;> rfl
@[simp] theorem slotAt_atReset (n : ℕ) : slotAt Block.atReset n = Latch.atReset := rfl
@[simp] theorem inputAt_atReset (i : ℕ) : inputAt Block.atReset i = DbInput.atReset := rfl

/-! ### The RESET step -/

theorem irqLevel_atReset : irqLevel Block.atReset = false := by decide

/-- A reset tells of the interrupt level only if it was high (R260). -/
theorem irqEvents_atReset (b : Block) : irqEvents b Block.atReset = if irqLevel b then [.irq false] else [] := by
  rw [irqEvents, irqLevel_atReset]
  cases irqLevel b <;> rfl

/-- RESET is always enabled, and only the interrupt level is told (R262). -/
theorem moves_reset {s : State} (hv : configValid s.cfg = true) : Moves .reset s Block.atReset [] :=
  moves_of_agentMove hv (by simp) rfl

/-- Settles O43: the RESET step leaves `Block.atReset`, whose memories have no cells. -/
theorem resetStepResetsBlock : Obligations.ResetStepResetsBlock := by
  intro s hv
  obtain ⟨t, hstep, hblk, hreplies, htrace, hcfg, hsched, _⟩ := moves_reset hv
  rw [List.append_nil, irqEvents_atReset] at htrace
  refine ⟨t, hstep, hcfg, hreplies, hsched, htrace, hblk, ?_⟩
  rw [hblk]
  exact ⟨rfl, sbAt_atReset, xAt_atReset, rbAt_atReset, slotAt_atReset, inputAt_atReset⟩

/-! ### The words the registers read as right after reset -/

theorem respWord_atReset : respWord Block.atReset = 0 := by decide

theorem statusWord_atReset (c : Config) : statusWord c Block.atReset = 0 := by
  have hbank : Block.atReset.wp / winLen c = 0 := Nat.zero_div _
  rw [statusWord, hbank]
  decide

theorem irqStatWord_atReset : irqStatWord Block.atReset = 0 := by decide

theorem irqEnWord_atReset : irqEnWord Block.atReset = 0 := by decide

theorem reportReqWord_atReset : reportReqWord Block.atReset = 0 := by decide

/-- No input debounces and no synchronized level is high, however many inputs there are. -/
theorem dbStateBits_atReset (n : ℕ) : dbStateBits Block.atReset n = 0 := by
  induction n with
  | zero => rfl
  | succ n ih =>
    have hidle : (DbInput.atReset.st == DbState.deb) = false := by decide
    have hlow : DbInput.atReset.s2 = false := rfl
    simp [dbStateBits, ih, hidle, hlow]

/-- A slot at reset is valid, of bank 0, and has nothing new (R261). -/
theorem subStatWord_atReset (n : ℕ) : subStatWord Block.atReset n = 2 := by
  rw [subStatWord_eq, slotAt_atReset]
  decide

/-! ### The statement -/

/-- The read of a register of an existing slot is a plain read (R132, R133). -/
theorem State.readSlot_of_lt {s : State} {n : ℕ} (hn : n < s.cfg.nSub) (v : Word) : s.readSlot n v = s.readOk v :=
  if_pos hn

/-- The read of a result word of an existing host slot is a plain read (R134). -/
theorem State.readResult_of_lt {s : State} {n k : ℕ} (hpos : 1 ≤ n) (hn : n < s.cfg.nSub) (hk : k < binCount s.cfg) :
    s.readResult n k = s.readOk (resWord s.blk n k) :=
  if_pos ⟨hpos, hn, hk⟩

/-- A plain read completes with its register's word. -/
theorem completes_of_readOk {i : Instr} {s : State} {v w : Word} (h : exec i s = .next (s.readOk v)) (hv : v = w) :
    Completes i s s.blk (.read w .okay) :=
  hv ▸ completes_of_answer h

/-- Settles O44: every read but that of EVQ_POP is a plain one, and the pop of the empty queue leaves it empty. -/
theorem registersReadZeroAfterReset : Obligations.RegistersReadZeroAfterReset := by
  intro c n k _ s
  refine ⟨fun i hi => ?_, fun hn => ⟨?_, ?_⟩, fun hpos hn hk => ?_⟩
  · rcases hi with rfl | rfl | rfl | rfl | rfl | rfl | rfl | rfl | rfl | rfl | rfl | rfl | rfl | rfl
    · exact completes_of_readOk rfl rfl
    · exact completes_of_readOk rfl respWord_atReset
    · exact completes_of_readOk rfl (statusWord_atReset c)
    · exact completes_of_readOk rfl irqStatWord_atReset
    · exact completes_of_readOk rfl irqEnWord_atReset
    -- VERSION and the four counters
    iterate 5 exact completes_of_readOk rfl rfl
    -- EVQ_POP
    · exact completes_of_answer rfl
    · exact completes_of_readOk rfl reportReqWord_atReset
    · exact completes_of_readOk rfl rfl
    · exact completes_of_readOk rfl (dbStateBits_atReset c.nIn)
  · exact completes_of_readOk (congrArg _ (State.readSlot_of_lt hn _)) (subStatWord_atReset n.toNat)
  · exact completes_of_readOk (congrArg _ (State.readSlot_of_lt hn _)) rfl
  · have hexec := exec_decodeResult n.isLt k.isLt s
    rw [State.readResult_of_lt hpos hn hk] at hexec
    exact completes_of_readOk hexec (rbAt_atReset _ _)

end Sys2Proof.Machine
end
